-- ==== Sys2Proof/Word.lean ====
section
/-! DEFINITION. Word widths of IDDC (spec/00_scope.md R6, R10): the unsigned values the rules name. -/

namespace Sys2Proof

/-- `u8` of rule R10: a frame byte, the counter, a latch byte. -/
abbrev Byte := BitVec 8

/-- A 4-bit value: one half of frame byte 3 (rule R56). -/
abbrev Nibble := BitVec 4

/-- `u16` of rule R10: a rotary position. A rotary delta (`s16`) is the same word read in two's
complement by `BitVec.toInt` (`sext_16` of rule R10). -/
abbrev Position := BitVec 16

/-- FRAME64 of rule R55: the 8 frame bytes as one 64-bit port word, byte i at [8i+7:8i] (rule R43). -/
abbrev Frame := BitVec 64

end Sys2Proof
end

