-- ==== Sys2Proof/Config.lean ====
section
/-! DEFINITION. What an implementation fixes (the parameters of spec/00_scope.md R7, legal by R8) and
the free values of the spec (registers it calls unspecified). -/

namespace Sys2Proof

/-- The 12 channels, in the source's processing order (R24, R49, R58). -/
inductive Channel where
  | center | left | up | right | down | menu | back | com | option | media | nav | map
deriving DecidableEq, Repr, Inhabited

/-- The three transition kinds of R64, in its order (kind 0, 1, 2). -/
inductive Kind where
  | enteredPrimary | enteredExtended | released
deriving DecidableEq, Repr, Inhabited

/-- The single-bit masks PMASK(ch) and EMASK(ch) of an independent-bit channel (R7, R59). -/
structure Masks where
  primary  : Byte
  extended : Byte
deriving DecidableEq, Repr, Inhabited

/-- The two table values NIB_P(d) and NIB_E(d) of a direction (R60). -/
structure Nibbles where
  primary  : Nibble
  extended : Nibble
deriving DecidableEq, Repr, Inhabited

/-- The three event codes EVENT_CODE(ch, k) of one channel (R65). -/
structure Codes where
  enteredPrimary  : BitVec 6
  enteredExtended : BitVec 6
  released        : BitVec 6
deriving DecidableEq, Repr, Inhabited

/-- The parameters the source leaves open (R7, OPEN in D8, D9; D10): build-time values (D22).
The direction left is no parameter: its nibbles are fixed (R60). -/
structure Params where
  center : Masks
  menu   : Masks
  back   : Masks
  com    : Masks
  option : Masks
  media  : Masks
  nav    : Masks
  map    : Masks
  up     : Nibbles
  right  : Nibbles
  down   : Nibbles
  /-- Row i holds the codes of the channel with index i (R58, R65). -/
  eventCodes : Vector Codes 12
deriving DecidableEq, Repr, Inhabited

/-- NIB_P(left) = 0xA and NIB_E(left) = 0xB (R6, R60, R62). -/
def leftNibbles : Nibbles := { primary := 0xA#4, extended := 0xB#4 }

/-- Exactly one bit set (R8 item 1). -/
def oneBit (b : Byte) : Bool := (List.range 8).any fun i => b == BitVec.ofNat 8 (2 ^ i)

/-- R8 items 1 and 2: two single, distinct bits. -/
def Masks.legal (m : Masks) : Bool := oneBit m.primary && oneBit m.extended && m.primary != m.extended

/-- R8 item 3: both center masks lie in bits [3:0]. -/
def Masks.inLowNibble (m : Masks) : Bool := m.primary &&& 0xF0#8 == 0#8 && m.extended &&& 0xF0#8 == 0#8

/-- The eight values of the directional table, over the four directions (R60). -/
def Params.nibbleTable (p : Params) : List Nibble :=
  [leftNibbles, p.up, p.right, p.down].flatMap fun n => [n.primary, n.extended]

/-- The 36 event codes, by channel index and then by kind (R65). -/
def Params.codeList (p : Params) : List (BitVec 6) :=
  p.eventCodes.toList.flatMap fun c => [c.enteredPrimary, c.enteredExtended, c.released]

/-- R8 items 1 to 3. -/
def Params.masksLegal (p : Params) : Bool :=
  [p.center, p.menu, p.back, p.com, p.option, p.media, p.nav, p.map].all Masks.legal
    && p.center.inLowNibble

/-- R8 items 4 and 5: pairwise distinct, and none is 0x0. -/
def Params.nibblesLegal (p : Params) : Bool :=
  decide p.nibbleTable.Nodup && p.nibbleTable.all (· != 0#4)

/-- R8 item 6: 36 distinct codes in 1..36, so a bijection onto 1..36. -/
def Params.codesLegal (p : Params) : Bool :=
  decide p.codeList.Nodup && p.codeList.all fun c => 1 ≤ c.toNat && c.toNat ≤ 36

/-- R8: a configuration is legal only if all six items hold. -/
def Params.legal (p : Params) : Bool := p.masksLegal && p.nibblesLegal && p.codesLegal

/-- The default EVENT_CODE(ch, k) = 3·ch + k + 1 of R65 (D10). -/
def defaultCodes : Vector Codes 12 :=
  Vector.ofFn fun i =>
    { enteredPrimary := BitVec.ofNat 6 (3 * i.val + 1)
      enteredExtended := BitVec.ofNat 6 (3 * i.val + 2)
      released := BitVec.ofNat 6 (3 * i.val + 3) }

/-- EXCFG of D19 (spec/95_test_vectors.md): an example, used in no rule. It shows that legal
configurations exist, and tests run under it; no meaning and no statement assumes it. -/
def exampleParams : Params where
  center := { primary := 0x01#8, extended := 0x02#8 }
  menu   := { primary := 0x01#8, extended := 0x02#8 }
  back   := { primary := 0x04#8, extended := 0x08#8 }
  com    := { primary := 0x01#8, extended := 0x02#8 }
  option := { primary := 0x04#8, extended := 0x08#8 }
  media  := { primary := 0x01#8, extended := 0x02#8 }
  nav    := { primary := 0x04#8, extended := 0x08#8 }
  map    := { primary := 0x01#8, extended := 0x02#8 }
  up     := { primary := 0x1#4, extended := 0x2#4 }
  right  := { primary := 0x4#4, extended := 0x5#4 }
  down   := { primary := 0x7#4, extended := 0x8#4 }
  eventCodes := defaultCodes

/-- A legal configuration: the parameters with the proof of R8, so that an illegal one cannot be
built (R8: the model refuses any other). The field default only shows that the type has a member. -/
structure Configuration where
  params : Params := exampleParams
  legal  : params.legal = true := by decide
deriving DecidableEq, Repr, Inhabited

/-- The configuration this core was built with: OPEN (R7, R59, D8 to D10, D22), so no value of it
can be proved. Log entry 1. -/
opaque Config.build : Configuration

/-- F after a RESET: unspecified, any value (R30, R124, U8). Log entry 2. -/
opaque Config.unspecifiedFrame : Nat → Frame

/-- S0-S4 before the first RESET, as {lastCounter, lastPos, L0, L1, L2}: unspecified (R182). Log entry 3. -/
opaque Config.unspecifiedRegisters : Nat → BitVec 48

/-- phase before the first RESET, as a 2-bit number: unspecified (R182). Log entry 3. -/
opaque Config.unspecifiedPhase : Nat → BitVec 2

/-- chan before the first RESET: unspecified (R182). Log entry 3. -/
opaque Config.unspecifiedChannel : Nat → Channel

end Sys2Proof
end

