-- ==== Sys2Proof/Syntax.lean ====
section
/-! DEFINITION. The operations of IDDC (spec/00_scope.md R2, spec/opcode_table.json): what stands in
for an instruction set. One constructor per row of the table. -/

namespace Sys2Proof

/-- The fields of FRAME64 after the counter, as the table's letters name them (R55, R56):
pos = word [23:8], dirnib = [31:28], b3lo = [27:24], b4 to b7 = [39:32] to [63:56]. -/
structure Body where
  pos    : Position
  dirnib : Nibble
  b3lo   : Nibble
  b4     : Byte
  b5     : Byte
  b6     : Byte
  b7     : Byte
deriving DecidableEq, Repr, Inhabited

/-- The three operations of R2. -/
inductive Instr where
  /-- DECODE.RESYNC (R121): one frame whose counter byte is 0. -/
  | decodeResync (body : Body)
  /-- DECODE (R120): one frame whose counter byte is `counter`, which is not 0. -/
  | decode (counter : Byte) (body : Body)
  /-- RESET (R124): the `rst` input high at a clock edge; no frame. -/
  | reset
deriving DecidableEq, Repr, Inhabited

end Sys2Proof
end

