-- ==== Sys2Proof/WellFormed.lean ====
section
/-! DEFINITION. Which terms of `Instr` are operations of the spec, and which parameters are a
configuration. -/

namespace Sys2Proof

/-- The table's rows: DECODE has any counter but 0x00 (R67, R120); every other field of a frame
takes every value (R68). -/
def Instr.wellFormed : Instr → Bool
  | .decodeResync _ => true
  | .decode counter _ => counter != 0#8
  | .reset => true

/-- A configuration from raw parameters; none where R8 does not hold (R8, U4: refused). -/
def Configuration.ofParams (p : Params) : Option Configuration :=
  if h : p.legal = true then some { params := p, legal := h } else none

end Sys2Proof
end

