-- ==== Sys2Proof/Decode.lean ====
section
/-! DEFINITION. The decoder and the encoder of FRAME64 and of the port operation RESET
(spec/30_encoding.md R55 to R57, R67 to R69; spec/20_memory.md R42, R43, R45). -/

namespace Sys2Proof

/-- Why bytes at the input are no frame. Both are safe: the 64-bit port cannot carry either. -/
inductive DecodeError where
  /-- Fewer than 8 bytes: not expressible at the port (R45, U1). -/
  | shortFrame
  /-- More than 8 bytes: there is no other format or length (R55, R69). -/
  | longFrame
deriving DecidableEq, Repr

/-- What selects an operation (R67): the `rst` input, and the frame word a handshake takes. -/
structure Offer where
  rst   : Bool
  frame : Frame
deriving DecidableEq, Repr

/-- F.b[i] = F[8i+7:8i] (R11, R30, R43). -/
def frameByte (F : Frame) (i : Fin 8) : Byte := F.extractLsb' (8 * i.val) 8

/-- The counter, F.b[0] (R56). -/
def frameCounter (F : Frame) : Byte := frameByte F 0

/-- pos = {F.b[2], F.b[1]}, little-endian in the frame (R42, R56). -/
def framePos (F : Frame) : Position := frameByte F 2 ++ frameByte F 1

/-- dirnib = F.b[3][7:4] (R56). -/
def frameDirnib (F : Frame) : Nibble := (frameByte F 3).extractLsb' 4 4

/-- F.b[3][3:0], the bits the directional nibble leaves to center (R57). -/
def frameB3lo (F : Frame) : Nibble := (frameByte F 3).extractLsb' 0 4

/-- The fields of the table's two frame rows after the counter. -/
def frameBody (F : Frame) : Body where
  pos    := framePos F
  dirnib := frameDirnib F
  b3lo   := frameB3lo F
  b4     := frameByte F 4
  b5     := frameByte F 5
  b6     := frameByte F 6
  b7     := frameByte F 7

/-- R67 for a frame: DECODE.RESYNC is tested first, and every other frame is DECODE. Total: no
frame value is illegal (R68). -/
def decodeWord (F : Frame) : Instr :=
  if frameCounter F = 0#8 then .decodeResync (frameBody F) else .decode (frameCounter F) (frameBody F)

/-- R67: rst high selects RESET whatever the frame is; else the frame selects. -/
def decodeOffer (o : Offer) : Instr := if o.rst then .reset else decodeWord o.frame

/-- The frame word of 8 bytes, byte 0 lowest (R43). -/
def joinBytes (b0 b1 b2 b3 b4 b5 b6 b7 : Byte) : Frame :=
  b7 ++ b6 ++ b5 ++ b4 ++ b3 ++ b2 ++ b1 ++ b0

/-- The decoder on any bytes: exactly 8 are a frame (R55); any other number is rejected by name. -/
def decodeBytes : List Byte → Except DecodeError Instr
  | [b0, b1, b2, b3, b4, b5, b6, b7] => .ok (decodeWord (joinBytes b0 b1 b2 b3 b4 b5 b6 b7))
  | bytes => if bytes.length < 8 then .error .shortFrame else .error .longFrame

/-- The 8 bytes of a frame word, byte 0 first (R43). -/
def frameBytes (F : Frame) : List Byte :=
  [frameByte F 0, frameByte F 1, frameByte F 2, frameByte F 3,
   frameByte F 4, frameByte F 5, frameByte F 6, frameByte F 7]

/-- The word of a frame row from its fields, in the order of the table's encoding, bit 63 first:
b7, b6, b5, b4, dirnib, b3lo, pos, counter (R55). -/
def encodeWord (counter : Byte) (b : Body) : Frame :=
  b.b7 ++ b.b6 ++ b.b5 ++ b.b4 ++ b.dirnib ++ b.b3lo ++ b.pos ++ counter

/-- The word of `FRAME c= pos= b3= … b7=` in the notation of R70: an omitted byte is 0x00. -/
def frameOf (c : Byte) (pos : Position) (b3 b4 b5 b6 b7 : Byte := 0x00#8) : Frame :=
  b7 ++ b6 ++ b5 ++ b4 ++ b3 ++ pos ++ c

/-- The encoder. A RESET has no frame bits (`frame_data` is ignored); it is written with zeros. -/
def encode : Instr → Offer
  | .decodeResync b => { rst := false, frame := encodeWord 0#8 b }
  | .decode c b => { rst := false, frame := encodeWord c b }
  | .reset => { rst := true, frame := 0#64 }

/-- The offer that stands for a row of the opcode table whose bits, `nbits` of them, are `w`. A row
without frame bits is the port operation RESET (log entry 4). -/
def tableOffer (nbits w : Nat) : Offer :=
  { rst := nbits == 0, frame := BitVec.ofNat 64 (w % 2 ^ nbits) }

/-- What the decoder reads from a table row's bits, laid out as the 8 frame bytes; none for a row
wider than FRAME64 (R69). -/
def decodeTableWord (nbits w : Nat) : Option Instr :=
  if nbits = 0 then some (decodeOffer (tableOffer nbits w))
  else if 64 < nbits then none
  else match decodeBytes (frameBytes (tableOffer nbits w).frame) with
    | .ok i => some i
    | .error _ => none

end Sys2Proof
end

