-- ==== Sys2Proof/Machine/State.lean ====
section
/-! DEFINITION. The state of IDDC as plain data (spec/10_state.md R20, R30; spec/44_interface.md R135),
the reasons a step can stop, and the state after RESET (spec/70_reset_and_hazards.md R180). -/

namespace Sys2Proof.Machine

/-- The architectural registers S0-S4 (R20). -/
structure Arch where
  /-- S0 (R21): last accepted sequence counter. -/
  lastCounter : Byte
  /-- S1 (R22): last accepted rotary position. -/
  lastPos : Position
  /-- S2 (R23): latch byte 0, the fields of center, left, up, right (R24). -/
  l0 : Byte
  /-- S3 (R23): latch byte 1, the fields of down, menu, back, com (R24). -/
  l1 : Byte
  /-- S4 (R23): latch byte 2, the fields of option, media, nav, map (R24). -/
  l2 : Byte
deriving DecidableEq, Repr, Inhabited

/-- The sequencing states of the multiplexed FSM (R30, R145). -/
inductive Phase where
  | idle | guard | rot | ch
deriving DecidableEq, Repr, Inhabited

/-- The input ports (R135): the levels the host drives. No step of the core writes them. -/
structure Pins where
  rst        : Bool
  frameValid : Bool
  frameData  : Frame
  rotReady   : Bool
  swReady    : Bool
deriving DecidableEq, Repr, Inhabited

/-- An event (R12, R13). A rotary delta is the word `rot_delta`, an s16 by `BitVec.toInt` (R44); a
switch event is the triple of R66. -/
inductive Event where
  | rotary (delta : Position)
  | switch (channel : Channel) (kind : Kind) (code : BitVec 6)
deriving DecidableEq, Repr, Inhabited

/-- The machine. `arch` holds S0-S4; `phase`, `frame` (F) and `chan` are the realisation's registers
(R30); `pins` the input ports (R135). The other fields are the model's own: `delivered` is what the
sinks have taken so far, oldest first (R123, R143); `config` the build-time parameters (R7, D22);
`wasReset` says whether a RESET has happened since power-on (R182); `freeCount` counts the free
values drawn (log entries 2 and 3). -/
structure State where
  arch      : Arch
  phase     : Phase
  frame     : Frame
  chan      : Channel
  pins      : Pins
  delivered : List Event
  config    : Configuration
  wasReset  : Bool
  freeCount : Nat
deriving DecidableEq, Repr

/-- IDDC raises no exception and has no fatal condition (R160, R165), so nothing can fault. -/
inductive Fault where
deriving DecidableEq, Repr

/-- Why the model gives a step no meaning. -/
inductive Refusal where
  /-- Raised by an arm of `exec` whose instruction has no meaning yet (none here). Safe. -/
  | notModelled (mnemonic : String)
  /-- Raised by a frame operation, or a frame offered to the FSM, before the first RESET (R182, D5,
  U7). Safe: nothing can be proved of such a run. -/
  | frameBeforeReset
  /-- Raised where the transition table reads a latch field of 11, and where a launch state has one
  (R26, R104, D7, U3). Safe: no state reachable from RESET has one. -/
  | illegalLatch
  /-- Raised by `launch` on parameters that break R8 (R8, U4). Safe: such a core has no run. -/
  | illegalConfiguration
deriving DecidableEq, Repr

/-- The input ports at reset: no frame offered, rst low again (R180, R181), and both sinks able to
take events (R183 item 3). The levels are the host's; DESIGN CHOICE, log entry 5. -/
def Pins.quiet : Pins :=
  { rst := false, frameValid := false, frameData := 0#64, rotReady := true, swReady := true }

/-- The machine right after RESET (R180). F is unspecified there: zero, DESIGN CHOICE, log entry 2. -/
def State.reset : State where
  arch := { lastCounter := 0xFF#8, lastPos := 0x7FFF#16, l0 := 0x00#8, l1 := 0x00#8, l2 := 0x00#8 }
  phase := .idle
  frame := 0#64
  chan := .center
  pins := Pins.quiet
  delivered := []
  config := Config.build
  wasReset := true
  freeCount := 0

end Sys2Proof.Machine
end

