-- ==== Sys2Proof/Machine/Flags.lean ====
section
/-! DEFINITION. The one-bit conditions the stages compute. IDDC stores no flag, condition code or
error counter (spec/10_state.md R29): these are temporaries of one frame. -/

namespace Sys2Proof.Machine

/-- diff of R83: the u8 wrapping subtraction c -_8 lastCounter. -/
def counterDiff (c lastCounter : Byte) : Byte := c - lastCounter

/-- R83: stale iff diff > 127, compared unsigned (WINDOW of R6). -/
def isStale (diff : Byte) : Bool := 127 < diff.toNat

/-- R90: `changed`, the 16-bit XOR of pos and lastPos reduced to one bit. -/
def posChanged (pos lastPos : Position) : Bool := (pos ^^^ lastPos) != 0#16

end Sys2Proof.Machine
end

