-- ==== Sys2Proof/Machine/Operands.lean ====
section
/-! DEFINITION. Operands: the descriptor table (spec/30_encoding.md R58), the latch fields
(spec/10_state.md R24, R25), the codes of R63 to R66, and the classifiers
(spec/42_edge_detector.md R101, R102). The frame's own fields are read in Sys2Proof/Decode.lean. -/

namespace Sys2Proof.Machine

/-- None, Primary or Extended: the raw state of a channel in a frame, and a latch's meaning (R13). -/
inductive Classification where
  | released | primary | extended
deriving DecidableEq, Repr, Inhabited

/-- How a channel is classified (the shape column of R58). -/
inductive Shape where
  | independentBit (masks : Masks)
  | sharedNibble (nibbles : Nibbles)
deriving DecidableEq, Repr

/-- Which latch byte holds a field (R24). -/
inductive LatchByte where
  | l0 | l1 | l2
deriving DecidableEq, Repr

/-- One row of the descriptor table: byteIndex and shape with its parameters (R58). The latch column
is `latchPlace`, which no parameter changes. -/
structure Descriptor where
  byteIndex : Fin 8
  shape     : Shape
deriving DecidableEq, Repr

/-- The index of a channel, 0..11 (R58). -/
def channelIndex : Channel → Fin 12
  | .center => 0 | .left => 1 | .up => 2 | .right => 3 | .down => 4 | .menu => 5
  | .back => 6 | .com => 7 | .option => 8 | .media => 9 | .nav => 10 | .map => 11

/-- The channels in index order, the order of the channel loop (R100). -/
def channelOrder : List Channel :=
  [.center, .left, .up, .right, .down, .menu, .back, .com, .option, .media, .nav, .map]

/-- The channel after this one in the walk; none after map, where the walk ends (R145). -/
def nextChannel : Channel → Option Channel
  | .center => some .left | .left => some .up | .up => some .right | .right => some .down
  | .down => some .menu | .menu => some .back | .back => some .com | .com => some .option
  | .option => some .media | .media => some .nav | .nav => some .map | .map => none

/-- The channel descriptor table (R58). -/
def descriptor (p : Params) : Channel → Descriptor
  | .center => ⟨3, .independentBit p.center⟩
  | .left   => ⟨3, .sharedNibble leftNibbles⟩
  | .up     => ⟨3, .sharedNibble p.up⟩
  | .right  => ⟨3, .sharedNibble p.right⟩
  | .down   => ⟨3, .sharedNibble p.down⟩
  | .menu   => ⟨4, .independentBit p.menu⟩
  | .back   => ⟨4, .independentBit p.back⟩
  | .com    => ⟨5, .independentBit p.com⟩
  | .option => ⟨5, .independentBit p.option⟩
  | .media  => ⟨6, .independentBit p.media⟩
  | .nav    => ⟨6, .independentBit p.nav⟩
  | .map    => ⟨7, .independentBit p.map⟩

/-- The latch column of the table: channel i has slot i mod 4 of latch byte i div 4 (R24, R58). -/
def latchPlace : Channel → LatchByte × Fin 4
  | .center => (.l0, 0) | .left => (.l0, 1) | .up => (.l0, 2) | .right => (.l0, 3)
  | .down => (.l1, 0) | .menu => (.l1, 1) | .back => (.l1, 2) | .com => (.l1, 3)
  | .option => (.l2, 0) | .media => (.l2, 1) | .nav => (.l2, 2) | .map => (.l2, 3)

/-- The 2-bit code of a classification, the latch code (R25, R63). -/
def classCode : Classification → BitVec 2
  | .released => 0b00#2
  | .primary => 0b10#2
  | .extended => 0b01#2

/-- The 2-bit code of a transition kind (R64). -/
def kindCode : Kind → BitVec 2
  | .enteredPrimary => 0
  | .enteredExtended => 1
  | .released => 2

/-- EVENT_CODE(ch, k) of the configuration (R65). -/
def eventCode (p : Params) (ch : Channel) (k : Kind) : BitVec 6 :=
  let c := p.eventCodes[channelIndex ch]
  match k with
  | .enteredPrimary => c.enteredPrimary
  | .enteredExtended => c.enteredExtended
  | .released => c.released

/-- Bits [2·slot+1 : 2·slot] of a latch byte (R24). -/
def byteField (b : Byte) (slot : Fin 4) : BitVec 2 := b.extractLsb' (2 * slot.val) 2

/-- A latch byte with one 2-bit field replaced whole and the other 6 bits as they were (R106). -/
def setByteField (b : Byte) (slot : Fin 4) (v : BitVec 2) : Byte :=
  (b &&& ~~~(0b11#8 <<< (2 * slot.val))) ||| (v.zeroExtend 8 <<< (2 * slot.val))

/-- L.field(ch) (R11, R24). -/
def readField (S : Arch) (ch : Channel) : BitVec 2 :=
  match latchPlace ch with
  | (.l0, slot) => byteField S.l0 slot
  | (.l1, slot) => byteField S.l1 slot
  | (.l2, slot) => byteField S.l2 slot

/-- L.field(ch) <- v (R11, R24, R106). -/
def writeField (S : Arch) (ch : Channel) (v : BitVec 2) : Arch :=
  match latchPlace ch with
  | (.l0, slot) => { S with l0 := setByteField S.l0 slot v }
  | (.l1, slot) => { S with l1 := setByteField S.l1 slot v }
  | (.l2, slot) => { S with l2 := setByteField S.l2 slot v }

/-- CLASSIFY.BIT (R101): primary wins when both mask bits are set. -/
def classifyBit (m : Masks) (raw : Byte) : Classification :=
  if raw &&& m.primary ≠ 0#8 then .primary
  else if raw &&& m.extended ≠ 0#8 then .extended
  else .released

/-- CLASSIFY.NIB (R102): an exact match of all four bits. -/
def classifyNib (n : Nibbles) (dirnib : Nibble) : Classification :=
  if dirnib = n.primary then .primary
  else if dirnib = n.extended then .extended
  else .released

/-- classify(ch) of R100: the row's shape chooses the classifier. The nibble of a shared-nibble row
is the high half of the row's byte, which is byte 3 for all four directions (R56, R58). -/
def classify (p : Params) (F : Frame) (ch : Channel) : Classification :=
  let row := descriptor p ch
  match row.shape with
  | .independentBit m => classifyBit m (frameByte F row.byteIndex)
  | .sharedNibble n => classifyNib n ((frameByte F row.byteIndex).extractLsb' 4 4)

end Sys2Proof.Machine
end

