-- ==== Sys2Proof/Machine/Ops.lean ====
section
/-! DEFINITION. The shared operations: the stages of a frame operation on S0-S4, the transaction
function of spec/43_decode.md R122, and the updates of the whole state. IDDC has no memory (R40), and
takes no exception and returns from none (R160, R165, R166), so there is no operation for either. -/

namespace Sys2Proof.Machine

/-- The values a RESET and a resync leave in S0-S4 (R80, R124, R125). -/
def initialArch : Arch :=
  { lastCounter := 0xFF#8, lastPos := 0x7FFF#16, l0 := 0x00#8, l1 := 0x00#8, l2 := 0x00#8 }

/-- RESYNC step (R80): a counter of 0 resets all of S0-S4; another counter writes nothing. -/
def resyncStage (F : Frame) (S : Arch) : Arch := if frameCounter F = 0#8 then initialArch else S

/-- The verdict of the DIFF step, which reads lastCounter after the resync (R83). -/
def accepts (F : Frame) (S : Arch) : Bool :=
  !isStale (counterDiff (frameCounter F) (resyncStage F S).lastCounter)

/-- The sequence guard: RESYNC, DIFF, then STALE (R81, nothing more is written) or ACCEPT (R82). -/
def guardStage (F : Frame) (S : Arch) : Arch :=
  if accepts F S then { resyncStage F S with lastCounter := frameCounter F } else resyncStage F S

/-- The event of the rotary stage: DELTA (R91) or NO-CHANGE (R92). -/
def rotaryEvent (F : Frame) (S : Arch) : Option Event :=
  if posChanged (framePos F) S.lastPos then some (.rotary (framePos F - S.lastPos)) else none

/-- The write of the rotary stage: lastPos <- pos, only when pos changed (R91, R92). -/
def rotaryStage (F : Frame) (S : Arch) : Arch :=
  if posChanged (framePos F) S.lastPos then { S with lastPos := framePos F } else S

/-- The event column of the transition table, by the raw classification: an event arises exactly where
one of prev and raw is None and the other is not, so both direct swaps are silent (R104, R105). The
table's last row, prev = 11, is refused where this is used. -/
def transitionEvent (prev : BitVec 2) (raw : Classification) : Option Kind :=
  match raw with
  | .released => if prev = 0b00#2 then none else some .released
  | .primary => if prev = 0b00#2 then some .enteredPrimary else none
  | .extended => if prev = 0b00#2 then some .enteredExtended else none

/-- TT, the whole transition table: the new latch, which is always the raw classification, and the
event; prev = 11 is refused (none) (R104). -/
def transition (prev : BitVec 2) (raw : Classification) : Option (Classification × Option Kind) :=
  if prev = 0b11#2 then none else some (raw, transitionEvent prev raw)

/-- The switch event of one turn of the channel loop, if there is one (R66, R100). -/
def channelEvent (p : Params) (F : Frame) (ch : Channel) (S : Arch) : Option Event :=
  (transitionEvent (readField S ch) (classify p F ch)).map fun k => .switch ch k (eventCode p ch k)

/-- The write of one turn: the field takes the new latch whole (R106). -/
def channelWrite (p : Params) (F : Frame) (ch : Channel) (S : Arch) : Arch :=
  writeField S ch (classCode (classify p F ch))

/-- The channel loop over a list of channels, events in the order of the list (R100). -/
def channelLoop (p : Params) (F : Frame) : List Channel → Arch → Arch × List Event
  | [], S => (S, [])
  | ch :: rest, S =>
    let r := channelLoop p F rest (channelWrite p F ch S)
    (r.1, (channelEvent p F ch S).toList ++ r.2)

/-- The stages after an accepting guard: rotary, then all 12 channels (R122, R164 item 3). -/
def acceptedStages (p : Params) (F : Frame) (S : Arch) : Arch × List Event :=
  let r := channelLoop p F channelOrder (rotaryStage F S)
  (r.1, (rotaryEvent F S).toList ++ r.2)

/-- No latch field holds 11 (R25, R26). -/
def Arch.latchesLegal (S : Arch) : Bool := channelOrder.all fun ch => readField S ch != 0b11#2

/-- The transaction function decode(S, F) of R122: the post-state and the ordered events. none where TT
would read a field of 11, which no state of its domain has (R26, R104). -/
def transaction (p : Params) (F : Frame) (S : Arch) : Option (Arch × List Event) :=
  if !accepts F S then some (guardStage F S, [])
  else if (guardStage F S).latchesLegal then some (acceptedStages p F (guardStage F S))
  else none

/-- Does the event's sink hold its ready at 1 (R141)? -/
def sinkReady (p : Pins) : Event → Bool
  | .rotary _ => p.rotReady
  | .switch _ _ _ => p.swReady

/-- Every listed event finds its sink ready; with both ready there is nothing to look up. -/
def sinksReady (p : Pins) (evs : List Event) : Bool :=
  (p.rotReady && p.swReady) || evs.all (sinkReady p)

/-- frame_ready = (phase = IDLE) AND (rst = 0) (R139). -/
def State.frameReady (s : State) : Bool := decide (s.phase = .idle) && !s.pins.rst

/-- The host's move: new levels on the input ports (R149). No step of the core makes it. -/
def State.withPins (s : State) (p : Pins) : State := { s with pins := p }

/-- The frame handshake's writes: F <- frame word, phase <- GUARD (R140). -/
def State.capture (s : State) (F : Frame) : State := { s with frame := F, phase := .guard }

/-- The writes at one edge of the FSM after capture: S0-S4, phase and chan, and the events that
transfer to their sinks at it (R141, R145). -/
def State.advance (s : State) (S : Arch) (ph : Phase) (ch : Channel) (evs : List Event) : State :=
  { s with arch := S, phase := ph, chan := ch, delivered := s.delivered ++ evs }

/-- RESET's writes (R124): S0-S4, phase and chan; F is left unspecified, a free value (U8). What was
delivered stays delivered, and nothing is emitted. -/
def State.afterReset (s : State) : State :=
  { s with
    arch := initialArch
    phase := .idle
    chan := .center
    frame := Config.unspecifiedFrame s.freeCount
    wasReset := true
    freeCount := s.freeCount + 1 }

/-- The phase a 2-bit number names, for a register that holds no specified value (R182). -/
def phaseOfBits (v : BitVec 2) : Phase :=
  if v = 0#2 then .idle else if v = 1#2 then .guard else if v = 2#2 then .rot else .ch

/-- Every register takes a value nothing constrains, as at power-on (R182). -/
def State.unspecified (s : State) : State :=
  let r := Config.unspecifiedRegisters s.freeCount
  { s with
    arch := { lastCounter := r.extractLsb' 40 8, lastPos := r.extractLsb' 24 16,
              l0 := r.extractLsb' 16 8, l1 := r.extractLsb' 8 8, l2 := r.extractLsb' 0 8 }
    phase := phaseOfBits (Config.unspecifiedPhase s.freeCount)
    chan := Config.unspecifiedChannel s.freeCount
    frame := Config.unspecifiedFrame s.freeCount
    freeCount := s.freeCount + 1 }

/-- Power-on (R182): every register unspecified, and no RESET yet. The levels on the ports and the
configuration are those given. -/
def State.powerOn (c : Configuration) (p : Pins) : State :=
  State.unspecified
    { arch := initialArch, phase := .idle, frame := 0#64, chan := .center, pins := p,
      delivered := [], config := c, wasReset := false, freeCount := 0 }

/-- A launch state: quiescent, after RESET, with given parameters and S0-S4. Parameters against R8
and a latch field of 11 are refused (R8, R26). -/
def launch (p : Params) (S : Arch) : Host.Outcome State Fault Refusal :=
  match Configuration.ofParams p with
  | none => .refused .illegalConfiguration
  | some c =>
    if S.latchesLegal then .next { State.reset with config := c, arch := S }
    else .refused .illegalLatch

end Sys2Proof.Machine
end

