-- ==== Sys2Proof/Machine/Cycle.lean ====
section
/-! DEFINITION. The cycle-level realisation of spec/44_interface.md: the outputs of a cycle, one rising
edge of clk, and running the edges until the core waits. R154 holds it to `transaction`. -/

namespace Sys2Proof.Machine

/-- The output ports in one cycle (R135). A payload is `none` in a cycle for which no rule states it. -/
structure Outputs where
  frameReady : Bool
  rotValid   : Bool
  rotDelta   : Option Position
  swValid    : Bool
  swChannel  : Option (BitVec 4)
  swKind     : Option (BitVec 2)
  swCode     : Option (BitVec 6)
deriving DecidableEq, Repr

/-- No event is presented; frame_ready as given. -/
def quietOutputs (ready : Bool) : Outputs :=
  { frameReady := ready, rotValid := false, rotDelta := none, swValid := false,
    swChannel := none, swKind := none, swCode := none }

/-- The event presented in this cycle: rot_valid and sw_valid are combinational in phase, F, chan,
S0-S4 and rst (R30, R145), and 0 while rst = 1 (R136). The outer none is TT's refusal. -/
def presented (s : State) : Option (Option Event) :=
  if s.pins.rst then some none
  else match s.phase with
    | .idle => some none
    | .guard => some none
    | .rot => some (rotaryEvent s.frame s.arch)
    | .ch =>
      if readField s.arch s.chan = 0b11#2 then none
      else some (channelEvent s.config.params s.frame s.chan s.arch)

/-- The outputs of the cycle before an edge (R136, R139, R145). none where TT refuses. -/
def outputs (s : State) : Option Outputs :=
  if s.pins.rst then some (quietOutputs false)
  else match s.phase with
    | .idle => some (quietOutputs true)
    | .guard => some (quietOutputs false)
    | .rot =>
      some { quietOutputs false with
        rotValid := posChanged (framePos s.frame) s.arch.lastPos
        rotDelta := some (framePos s.frame - s.arch.lastPos) }
    | .ch =>
      (transition (readField s.arch s.chan) (classify s.config.params s.frame s.chan)).map fun r =>
        { quietOutputs false with
          swValid := r.2.isSome
          swChannel := some (BitVec.ofNat 4 (channelIndex s.chan).val)
          swKind := r.2.map kindCode
          swCode := r.2.map (eventCode s.config.params s.chan) }

/-- The events of an edge transfer: there is none, or its sink is ready (R141). -/
def transfers (p : Pins) : Option Event → Bool
  | none => true
  | some e => sinkReady p e

/-- The core waits for a sink: an event is presented and its ready is 0 (R141, R172). -/
def State.stalled (s : State) : Bool :=
  match presented s with
  | some ev => !transfers s.pins ev
  | none => false

/-- GUARD's edge (R145): accept and go on to ROT, or drop and go back to IDLE. -/
def guardEdge (s : State) : State :=
  s.advance (guardStage s.frame s.arch) (if accepts s.frame s.arch then .rot else .idle) s.chan []

/-- ROT's edge (R145): hold while a presented event does not transfer. -/
def rotEdge (s : State) : State :=
  let ev := rotaryEvent s.frame s.arch
  if transfers s.pins ev then s.advance (rotaryStage s.frame s.arch) .ch .center ev.toList else s

/-- CH's edge (R145): hold while a presented event does not transfer; after map, back to IDLE. -/
def chEdge (s : State) : State :=
  let ev := channelEvent s.config.params s.frame s.chan s.arch
  let S := channelWrite s.config.params s.frame s.chan s.arch
  if transfers s.pins ev then
    match nextChannel s.chan with
    | some ch => s.advance S .ch ch ev.toList
    | none => s.advance S .idle .center ev.toList
  else s

/-- One rising edge of clk with the levels of `pins`, rst first (R136, R145, R164). Before the first
RESET a frame is refused, and an edge without one leaves the registers unspecified (R182). In CH a
field of 11 is refused (R104). -/
def edge (s : State) : Host.Outcome State Fault Refusal :=
  if s.pins.rst then .next s.afterReset
  else if !s.wasReset then
    if s.pins.frameValid then .refused .frameBeforeReset else .next s.unspecified
  else match s.phase with
    | .idle => .next (if s.pins.frameValid then s.capture s.pins.frameData else s)
    | .guard => .next (guardEdge s)
    | .rot => .next (rotEdge s)
    | .ch =>
      if readField s.arch s.chan = 0b11#2 then .refused .illegalLatch else .next (chEdge s)

/-- At most n edges with the pins as they are, up to the next wait: in IDLE for a frame, or in ROT or
CH for a sink (R172). 14 edges reach one from any phase (R147). -/
def settle : Nat → State → Host.Outcome State Fault Refusal
  | 0, s => .next s
  | n + 1, s =>
    if s.phase = .idle || s.stalled then .next s
    else match edge s with
      | .next t => settle n t
      | .fault r => .fault r
      | .refused r => .refused r

/-- Edges under a host that drives the levels `p` before each: the run stops with a refusal. -/
def runEdges : List Pins → State → Host.Outcome State Fault Refusal
  | [], s => .next s
  | p :: ps, s =>
    match edge (s.withPins p) with
    | .next t => runEdges ps t
    | .fault r => .fault r
    | .refused r => .refused r

end Sys2Proof.Machine
end

