-- ==== Sys2Proof/Machine/Frame.lean ====
section
/-! DEFINITION. The frame operations DECODE and DECODE.RESYNC (spec/43_decode.md R120, R121). -/

namespace Sys2Proof.Machine

/-- The state at the end of a frame operation: the transaction's post-state and events, F the frame
taken, back in IDLE; chan is 0 after the walk, and a stale frame does not walk (R122, R145, R146). -/
def State.finished (s : State) (F : Frame) (S : Arch) (evs : List Event) : State :=
  (s.capture F).advance S .idle (if accepts F s.arch then .center else s.chan) evs

/-- A frame operation. A frame offered while frame_ready = 0 is not taken, and nothing happens to it
(R140). Where every event finds its sink ready, the operation completes with the result of R122. Where
a sink is not ready, the core presents that event and waits for it (R123, R141, R172): the next state
is that wait, and the operation goes on at the next step. -/
def frameOperation (F : Frame) (s : State) : Host.Outcome State Fault Refusal :=
  if !s.wasReset then .refused .frameBeforeReset
  else if !s.frameReady then .next s
  else match transaction s.config.params F s.arch with
    | none => .refused .illegalLatch
    | some (S, evs) =>
      if sinksReady s.pins evs then .next (s.finished F S evs) else settle 14 (s.capture F)

/-- DECODE.RESYNC (R121): the frame operation on a frame whose counter is 0. -/
def execDecodeResync (body : Body) (s : State) : Host.Outcome State Fault Refusal :=
  frameOperation (encodeWord 0#8 body) s

/-- DECODE (R120): the frame operation on a frame whose counter is not 0. -/
def execDecode (counter : Byte) (body : Body) (s : State) : Host.Outcome State Fault Refusal :=
  frameOperation (encodeWord counter body) s

end Sys2Proof.Machine
end

