-- ==== Sys2Proof/Machine/Port.lean ====
section
/-! DEFINITION. The port operation RESET (spec/43_decode.md R124). -/

namespace Sys2Proof.Machine

/-- RESET (R124): in any phase, at any moment after power-on; it has priority over every frame and
abandons one in progress (R136, R164). It emits nothing, and an event presented but not taken is
withdrawn (R144). -/
def execReset (s : State) : Host.Outcome State Fault Refusal := .next s.afterReset

end Sys2Proof.Machine
end

