-- ==== Sys2Proof/Machine/Dispatch.lean ====
section
/-! DEFINITION. The meaning of every operation, one arm per constructor of Instr. -/

namespace Sys2Proof.Machine

def exec (i : Instr) (s : State) : Host.Outcome State Fault Refusal :=
  match i with
  | .decodeResync body => Sys2Proof.Machine.execDecodeResync body s
  | .decode counter body => Sys2Proof.Machine.execDecode counter body s
  | .reset => Sys2Proof.Machine.execReset s

end Sys2Proof.Machine
end

