-- ==== Sys2Proof/Machine/Fetch.lean ====
section
/-! DEFINITION. Which operation the ports select now (spec/30_encoding.md R67). IDDC fetches nothing from
any address and has no program counter (R28, R41, R52): the host offers each operation at the ports. -/

namespace Sys2Proof.Machine

/-- R67: RESET while rst = 1; else, where a frame handshake happens (R140), the operation the 8 bytes
of frame_data select; none where nothing starts. -/
def fetch (s : State) : Option Instr :=
  if s.pins.rst then some (decodeOffer { rst := true, frame := s.pins.frameData })
  else if s.frameReady && s.pins.frameValid then
    match decodeBytes (frameBytes s.pins.frameData) with
    | .ok i => some i
    | .error _ => none
  else none

/-- What the core does where no operation starts: before the first RESET as `edge` says (R182); else
it goes on with the frame in progress up to the next wait, or keeps waiting in IDLE (R172). -/
def continueFrame (s : State) : Host.Outcome State Fault Refusal :=
  if s.wasReset then settle 14 s else edge s

/-- The ports with a table row's bits offered on them. -/
def offerPins (p : Pins) (o : Offer) : Pins :=
  { p with rst := o.rst, frameValid := !o.rst, frameData := o.frame }

end Sys2Proof.Machine
end

