-- ==== Sys2Proof/Machine/Step.lean ====
section
/-! DEFINITION. One step: one operation of the core (spec/00_scope.md R5, the normative level), or, where
none starts, the frame in progress up to the core's next wait. The pins keep their levels: only the
host changes them, between steps. -/

namespace Sys2Proof.Machine

/-- One step of the machine. -/
def step (s : State) : Host.Outcome State Fault Refusal :=
  match fetch s with
  | some i => exec i s
  | none => continueFrame s

/-- s with a table row's bits offered at the input ports, so that the next step runs that operation:
rst is high for the row without frame bits (RESET), else the frame is valid on frame_data. A frame is
taken only in IDLE and after a RESET (R139, R182), so these two are set as well. -/
def State.withFetchWord (s : State) (nbits w : Nat) : State :=
  { s with pins := offerPins s.pins (tableOffer nbits w), phase := .idle, wasReset := true }

end Sys2Proof.Machine
end

