-- ==== Sys2Proof/Safety.lean ====
section
/-! DEFINITION. The terms in which claims speak: quiescent states and observations
(spec/44_interface.md R150), the machine's invariant, the closed form of a frame's events, and runs. -/

namespace Sys2Proof.Machine

/-- A quiescent point: phase = IDLE and rst = 0 (R150). -/
def State.quiescent (s : State) : Bool := decide (s.phase = .idle) && !s.pins.rst

/-- S0-S4 as an observer may see them: at quiescent points only (R31, R32, R150). -/
def State.observe (s : State) : Option Arch := if s.quiescent then some s.arch else none

/-- The next frame handshake starts a frame operation: a RESET has happened, and frame_ready = 1. -/
def State.takesFrame (s : State) : Bool := s.wasReset && s.frameReady

/-- Both sinks hold their ready at 1. -/
def State.sinksOpen (s : State) : Bool := s.pins.rotReady && s.pins.swReady

/-- The channel is latched Primary or Extended (R13). -/
def engaged (S : Arch) (ch : Channel) : Bool := readField S ch != 0b00#2

/-- left, up, right, down: the shared-nibble channels (R13). -/
def directions : List Channel := [.left, .up, .right, .down]

/-- Of these channels at most one is engaged. -/
def atMostOneEngaged (S : Arch) (chs : List Channel) : Bool := (chs.filter (engaged S)).length ≤ 1

/-- The channel loop, now at `pos`, has passed `ch`. -/
def walked (pos ch : Channel) : Bool := channelIndex ch < channelIndex pos

/-- What holds of every state a run from RESET reaches: no latch field holds 11 (R26), chan is 0 but
in the walk (R30, R145), and at most one direction is engaged (R103, R108); within the walk the
fields already passed hold this frame's classification (R106), and the last clause is about the rest. -/
def State.inv (s : State) : Bool :=
  !s.wasReset ||
    (s.arch.latchesLegal
      && (decide (s.phase = .ch) || decide (s.chan = .center))
      && (if s.phase = .ch then
            (channelOrder.filter (walked s.chan)).all
                (fun ch => readField s.arch ch == classCode (classify s.config.params s.frame ch))
              && atMostOneEngaged s.arch (directions.filter fun ch => !walked s.chan ch)
          else atMostOneEngaged s.arch directions))

/-- The Boolean rule of R104 for the event of a channel. -/
def expectedKind (prev : BitVec 2) (raw : Classification) : Option Kind :=
  if prev = 0b00#2 ∧ raw = .primary then some .enteredPrimary
  else if prev = 0b00#2 ∧ raw = .extended then some .enteredExtended
  else if prev ≠ 0b00#2 ∧ raw = .released then some .released
  else none

/-- The switch event of one channel, from its latch before the frame and the frame (R66, R104). -/
def expectedSwitch (p : Params) (F : Frame) (S : Arch) (ch : Channel) : Option Event :=
  (expectedKind (readField S ch) (classify p F ch)).map fun k => .switch ch k (eventCode p ch k)

/-- The switch events of a frame, channel by channel in the order of R100. -/
def expectedSwitches (p : Params) (F : Frame) (S : Arch) : List Event :=
  channelOrder.filterMap (expectedSwitch p F S)

/-- The switch event of one channel where every latch is clear, as a DECODE.RESYNC leaves them: the
classification enters, and nothing is released (R110, R121). -/
def enteredSwitch (p : Params) (F : Frame) (ch : Channel) : Option Event :=
  match classify p F ch with
  | .released => none
  | .primary => some (.switch ch .enteredPrimary (eventCode p ch .enteredPrimary))
  | .extended => some (.switch ch .enteredExtended (eventCode p ch .enteredExtended))

/-- The event is a switch event. -/
def isSwitch : Event → Bool
  | .rotary _ => false
  | .switch _ _ _ => true

/-- The event is a switch event of this channel. -/
def isSwitchOf (ch : Channel) : Event → Bool
  | .rotary _ => false
  | .switch c _ _ => decide (c = ch)

/-- The rotary events of a frame against a last position: none or one (R91, R92, R93). -/
def expectedRotary (pos lastPos : Position) : List Event :=
  if pos = lastPos then [] else [.rotary (pos - lastPos)]

/-- The place of an event in the total order of one frame: the rotary event, then channel order (R49). -/
def eventRank : Event → Nat
  | .rotary _ => 0
  | .switch ch _ _ => (channelIndex ch).val + 1

/-- The delta a rotary event carries; 0 for a switch event, so that sums count rotary events only. -/
def eventDelta : Event → Position
  | .rotary d => d
  | .switch _ _ _ => 0#16

/-- The frames of a run, one operation after another, each by its own meaning. -/
def runFrames : List Frame → State → Host.Outcome State Fault Refusal
  | [], s => .next s
  | F :: Fs, s =>
    match exec (decodeWord F) s with
    | .next t => runFrames Fs t
    | .fault r => .fault r
    | .refused r => .refused r

/-- The edges of one frame in progress, under the levels the host drives before each: the state when
phase returns to IDLE for the first time, if that is after exactly these edges (R146). -/
def runToIdle : List Pins → State → Option State
  | [], s => if s.phase = .idle then some s else none
  | p :: ps, s =>
    if s.phase = .idle then none
    else match edge (s.withPins p) with
      | .next t => runToIdle ps t
      | _ => none

/-- The cycles of such a run in which a presented event's sink holds ready at 0 (R147). -/
def stallCycles : List Pins → State → Nat
  | [], _ => 0
  | p :: ps, s =>
    (if (s.withPins p).stalled then 1 else 0) +
      match edge (s.withPins p) with
      | .next t => stallCycles ps t
      | _ => 0

end Sys2Proof.Machine
end

