-- ==== Sys2Proof/Certificates/Slice0/Obligations.lean ====
section
/-! DEFINITION. The statements for the provers. A docstring that says "the spec's own decision D<n>" names
the entry of spec/92_eei_decisions.md that the clause rests on, and one that says "the model's choice" the
entry of the assumption log. -/

open Sys2Proof Sys2Proof.Machine

/-! ## Selecting and coding an operation -/

/-- R67. Where the ports select an operation and its bits decode to a well-formed `i`, one step is
`exec i`; `step` adds nothing around it (that a step is one operation is the model's choice, log
entry 7; the ports are the spec's own decisions D3, D4, D13). -/
def Obligations.StepRunsTheSelectedOperation : Prop :=
  ∀ (s : State) (i : Instr), i.wellFormed = true →
    ((s.pins.rst = true ∧ i = .reset)
      ∨ (s.pins.rst = false ∧ s.phase = .idle ∧ s.pins.frameValid = true
          ∧ decodeBytes (frameBytes s.pins.frameData) = .ok i)) →
    step s = exec i s

/-- A few words of 95_test_vectors.md and R70, byte 0 first, and what they stand for. -/
def Obligations.WrittenOutFramesDecode : Prop :=
  decodeBytes [0x01#8, 0x10#8, 0x00#8, 0xA0#8, 0x00#8, 0x00#8, 0x00#8, 0x00#8]
      = .ok (.decode 0x01#8 ⟨0x0010#16, 0xA#4, 0x0#4, 0x00#8, 0x00#8, 0x00#8, 0x00#8⟩)
    ∧ decodeBytes [0x00#8, 0x05#8, 0x00#8, 0xA0#8, 0x00#8, 0x00#8, 0x00#8, 0x00#8]
      = .ok (.decodeResync ⟨0x0005#16, 0xA#4, 0x0#4, 0x00#8, 0x00#8, 0x00#8, 0x00#8⟩)
    ∧ decodeBytes [0x11#8, 0x01#8, 0x00#8, 0x02#8, 0x08#8, 0x02#8, 0x08#8, 0x02#8]
      = .ok (.decode 0x11#8 ⟨0x0001#16, 0x0#4, 0x2#4, 0x08#8, 0x02#8, 0x08#8, 0x02#8⟩)
    ∧ decodeOffer { rst := true, frame := 0xFFFFFFFFFFFFFFFF#64 } = .reset

/-- Every well-formed operation is read back from what the encoder writes, with every field at every
value. A RESET is written with frame bits of 0, which it ignores (log entry 4). -/
def Obligations.EncodedOperationsDecodeBack : Prop :=
  ∀ i : Instr, i.wellFormed = true → decodeOffer (encode i) = i

/-- No bit of a frame is dropped: the 8 bytes of any word decode to a well-formed operation, whose
encoding is that word (R68). -/
def Obligations.EveryFrameWordDecodesAndEncodesBack : Prop :=
  ∀ F : Frame, ∃ i : Instr, decodeBytes (frameBytes F) = .ok i ∧ i.wellFormed = true
    ∧ encode i = { rst := false, frame := F }

/-- Exactly 8 bytes are a frame; fewer and more are rejected by name (the model's choice of a form for
R45 and U1, log entry 13). -/
def Obligations.OnlyEightBytesAreAFrame : Prop :=
  ∀ bytes : List Byte,
    (bytes.length < 8 → decodeBytes bytes = .error .shortFrame)
      ∧ (8 < bytes.length → decodeBytes bytes = .error .longFrame)
      ∧ (bytes.length = 8 → ∃ i, decodeBytes bytes = .ok i)

/-! ## Reset, power-on, launch -/

/-- The reset values of R180 and the outputs then. F is not mentioned: its value is the model's
choice (log entry 2). The levels of the input pins are the model's choice (log entry 5). -/
def Obligations.ResetStateHoldsTheListedValues : Prop :=
  State.reset.arch.lastCounter = 0xFF#8 ∧ State.reset.arch.lastPos = 0x7FFF#16
    ∧ State.reset.arch.l0 = 0x00#8 ∧ State.reset.arch.l1 = 0x00#8 ∧ State.reset.arch.l2 = 0x00#8
    ∧ State.reset.phase = .idle ∧ State.reset.chan = .center ∧ State.reset.delivered = []
    ∧ outputs State.reset = some (quietOutputs true)

/-- RESET, from any state at all: the registers take their reset values, nothing is emitted, and what
was delivered stays (R124). F is unspecified and not mentioned. That it acts in any phase is the
spec's own decision D4. -/
def Obligations.ResetOperationResult : Prop :=
  ∀ s : State, ∃ t, exec .reset s = .next t
    ∧ t.arch = { lastCounter := 0xFF#8, lastPos := 0x7FFF#16, l0 := 0x00#8, l1 := 0x00#8, l2 := 0x00#8 }
    ∧ t.phase = .idle ∧ t.chan = .center ∧ t.delivered = s.delivered
    ∧ t.pins = s.pins ∧ t.config = s.config ∧ t.wasReset = true

/-- A rising edge with rst = 1 is RESET whatever else the ports and the phase are, and all three
handshake outputs are 0 in that cycle (R136, R144, R164; the spec's own decision D4). -/
def Obligations.ResetHasPriorityAtEveryEdge : Prop :=
  ∀ s : State, s.pins.rst = true →
    edge s = exec .reset s ∧ step s = exec .reset s ∧ outputs s = some (quietOutputs false)

/-- Before the first RESET a frame is refused, whatever the registers hold; the first RESET leaves the
reset values of S0-S4, phase and chan (R182, the spec's own decision D5; the registers' values before it
are free values, log entry 3). -/
def Obligations.PowerOnNeedsAReset : Prop :=
  ∀ (c : Configuration) (p : Pins),
    (p.rst = false → p.frameValid = true →
      step (State.powerOn c p) = .refused .frameBeforeReset
        ∧ edge (State.powerOn c p) = .refused .frameBeforeReset)
      ∧ (p.rst = true → ∃ t, step (State.powerOn c p) = .next t ∧ t.arch = State.reset.arch
          ∧ t.phase = State.reset.phase ∧ t.chan = State.reset.chan ∧ t.wasReset = true)

/-- Both frame operations are refused before the first RESET, whatever the state is (R182, the
spec's own decision D5). -/
def Obligations.FrameOperationsNeedAReset : Prop :=
  ∀ (c : Byte) (b : Body) (s : State), s.wasReset = false →
    exec (.decode c b) s = .refused .frameBeforeReset
      ∧ exec (.decodeResync b) s = .refused .frameBeforeReset

/-- Parameters against R8 and a latch field of 11 are refused, and nothing else is; a launched state
is quiescent and observed as launched (R8, R26, R31; the spec's own decisions D7, D8, D16; `launch` is
the model's form, log entry 6). -/
def Obligations.LaunchRefusesIllegalParametersAndLatches : Prop :=
  ∀ (p : Params) (S : Arch),
    (p.legal = false → launch p S = .refused .illegalConfiguration)
      ∧ (p.legal = true → S.latchesLegal = false → launch p S = .refused .illegalLatch)
      ∧ (p.legal = true → S.latchesLegal = true →
          ∃ t, launch p S = .next t ∧ t.config.params = p ∧ t.observe = some S)

/-! ## The frame operations -/

/-- DECODE, accepted: the whole result in closed form, and the frame. lastCounter and lastPos take the
frame's values, every latch field its classification, the events are the rotary event if pos changed
and then the switch events by channel; the input pins, the configuration and the model's own counters
are unchanged (R82, R90 to R94, R100 to R107, R120, R122). That F holds the frame taken, phase is IDLE
and chan is 0 is the realisation's: the spec's own decision D13. -/
def Obligations.AcceptedDecodeResult : Prop :=
  ∀ (c : Byte) (b : Body) (s : State),
    c ≠ 0#8 → s.takesFrame = true → s.sinksOpen = true → s.arch.latchesLegal = true →
    (c - s.arch.lastCounter).toNat ≤ 127 →
    ∃ t, exec (.decode c b) s = .next t
      ∧ t.arch.lastCounter = c ∧ t.arch.lastPos = b.pos
      ∧ (∀ ch, readField t.arch ch = classCode (classify s.config.params (encodeWord c b) ch))
      ∧ t.delivered = s.delivered ++ expectedRotary b.pos s.arch.lastPos
          ++ expectedSwitches s.config.params (encodeWord c b) s.arch
      ∧ t.phase = .idle ∧ t.chan = .center ∧ t.frame = encodeWord c b
      ∧ t.pins = s.pins ∧ t.config = s.config ∧ t.wasReset = s.wasReset ∧ t.freeCount = s.freeCount

/-- DECODE, stale: no register of S0-S4 is written, no event emitted, nothing reported, and the core is
in IDLE again (R81). Only F changes, to the frame the handshake took, and phase and chan are as before:
that is the realisation's (R140; the spec's own decision D13). No sink and no latch matters. -/
def Obligations.StaleDecodeChangesNothing : Prop :=
  ∀ (c : Byte) (b : Body) (s : State),
    c ≠ 0#8 → s.takesFrame = true → 127 < (c - s.arch.lastCounter).toNat →
    exec (.decode c b) s = .next { s with frame := encodeWord c b }

/-- DECODE.RESYNC: never stale, decoded against cleared latches and the sentinel position, from any
S0-S4 at all, a latch field of 11 included (the model's reading, log entry 6). Rotary unless pos is
0x7FFF, then Entered events only (R121). -/
def Obligations.DecodeResyncResult : Prop :=
  ∀ (b : Body) (s : State), s.takesFrame = true → s.sinksOpen = true →
    ∃ t, exec (.decodeResync b) s = .next t
      ∧ t.arch.lastCounter = 0#8 ∧ t.arch.lastPos = b.pos
      ∧ (∀ ch, readField t.arch ch = classCode (classify s.config.params (encodeWord 0#8 b) ch))
      ∧ t.delivered = s.delivered ++ expectedRotary b.pos 0x7FFF#16
          ++ channelOrder.filterMap (enteredSwitch s.config.params (encodeWord 0#8 b))
      ∧ t.phase = .idle ∧ t.chan = .center ∧ t.frame = encodeWord 0#8 b
      ∧ t.pins = s.pins ∧ t.config = s.config ∧ t.wasReset = s.wasReset ∧ t.freeCount = s.freeCount

/-- A DECODE is refused for a latch field of 11 exactly where its frame is accepted and TT would read
one; a state reachable from RESET has none (R26, R104; where exactly it is refused is the model's choice,
log entry 6). -/
def Obligations.IllegalLatchIsRefusedWhereRead : Prop :=
  ∀ (c : Byte) (b : Body) (s : State), c ≠ 0#8 → s.takesFrame = true →
    (exec (.decode c b) s = .refused .illegalLatch
      ↔ (c - s.arch.lastCounter).toNat ≤ 127 ∧ ∃ ch, readField s.arch ch = 0b11#2)

/-- A frame offered while frame_ready = 0 is not taken, and nothing happens (R139, R140; the spec's own
decision D13). That exec of a frame operation on such a core answers the same state is the model's
choice, log entry 16; no step asks it. -/
def Obligations.BusyCoreTakesNoFrame : Prop :=
  ∀ (c : Byte) (b : Body) (s : State), s.wasReset = true → (s.phase ≠ .idle ∨ s.pins.rst = true) →
    exec (.decode c b) s = .next s ∧ exec (.decodeResync b) s = .next s

/-- The byte and shape of every channel, from the frame's fields (R56 to R58). -/
def Obligations.ChannelsReadTheirTableBytes : Prop :=
  ∀ (p : Params) (c : Byte) (b : Body),
    classify p (encodeWord c b) .center = classifyBit p.center (b.dirnib ++ b.b3lo)
      ∧ classify p (encodeWord c b) .left = classifyNib leftNibbles b.dirnib
      ∧ classify p (encodeWord c b) .up = classifyNib p.up b.dirnib
      ∧ classify p (encodeWord c b) .right = classifyNib p.right b.dirnib
      ∧ classify p (encodeWord c b) .down = classifyNib p.down b.dirnib
      ∧ classify p (encodeWord c b) .menu = classifyBit p.menu b.b4
      ∧ classify p (encodeWord c b) .back = classifyBit p.back b.b4
      ∧ classify p (encodeWord c b) .com = classifyBit p.com b.b5
      ∧ classify p (encodeWord c b) .option = classifyBit p.option b.b5
      ∧ classify p (encodeWord c b) .media = classifyBit p.media b.b6
      ∧ classify p (encodeWord c b) .nav = classifyBit p.nav b.b6
      ∧ classify p (encodeWord c b) .map = classifyBit p.map b.b7

/-! ## The sequence guard -/

/-- R83 on every frame operation, with lc' the lastCounter after the resync step: the frame is accepted
when diff = c - lc' modulo 256 is at most 127, and stale when it is more, which is exactly when c lies 1
to 128 steps behind lc' (C2). -/
def Obligations.StaleMeansOneToOneTwentyEightBehind : Prop :=
  ∀ (F : Frame) (S : Arch),
    (accepts F S = true ↔ (frameCounter F - (resyncStage F S).lastCounter).toNat ≤ 127)
      ∧ (accepts F S = false ↔ 127 < (frameCounter F - (resyncStage F S).lastCounter).toNat)
      ∧ (accepts F S = false ↔ ∃ k : Nat, 1 ≤ k ∧ k ≤ 128
          ∧ frameCounter F = (resyncStage F S).lastCounter - BitVec.ofNat 8 k)

/-- R80: a counter of 0 writes the sentinels and clears the latches, before any test; another counter
writes nothing (C1). -/
def Obligations.ResyncStepWritesTheInitialValues : Prop :=
  ∀ (F : Frame) (S : Arch),
    (frameCounter F = 0#8 → resyncStage F S
        = { lastCounter := 0xFF#8, lastPos := 0x7FFF#16, l0 := 0x00#8, l1 := 0x00#8, l2 := 0x00#8 })
      ∧ (frameCounter F ≠ 0#8 → resyncStage F S = S)

/-- R82, R81 for the guard as a whole: an accepted frame's counter becomes lastCounter, and nothing
else is written after the resync step; a stale frame writes nothing after it. -/
def Obligations.GuardWritesTheCounterOfAcceptedFramesOnly : Prop :=
  ∀ (F : Frame) (S : Arch),
    (accepts F S = true → guardStage F S = { resyncStage F S with lastCounter := frameCounter F })
      ∧ (accepts F S = false → guardStage F S = resyncStage F S ∧ guardStage F S = S)

/-- The first frame after RESET is accepted when its counter is 0 to 126 or 255, and stale when it is
127 to 254 (R86, R186). -/
def Obligations.FirstFrameWindowAfterReset : Prop :=
  ∀ F : Frame,
    (accepts F State.reset.arch = true
      ↔ (frameCounter F).toNat ≤ 126 ∨ (frameCounter F).toNat = 255)
      ∧ (accepts F State.reset.arch = false
        ↔ 127 ≤ (frameCounter F).toNat ∧ (frameCounter F).toNat ≤ 254)

/-- A stale frame in a run can be left out of it: the run ends in the same S0-S4, with the same events
delivered (R27, R161). -/
def Obligations.StaleFramesCanBeLeftOut : Prop :=
  ∀ (before after : List Frame) (F : Frame) (s u t : State), s.takesFrame = true → s.sinksOpen = true →
    runFrames before s = .next u → accepts F u.arch = false →
    runFrames (before ++ F :: after) s = .next t →
    ∃ t', runFrames (before ++ after) s = .next t' ∧ t'.arch = t.arch ∧ t'.delivered = t.delivered

/-- The counters 0, 1, …, 255, 0, 1, with any bodies and from any S0-S4, are all accepted, one after
another, and each operation completes (R85). -/
def Obligations.WholeCounterCycleIsAccepted : Prop :=
  ∀ (bodies : List Body) (s : State), bodies.length = 258 → s.takesFrame = true → s.sinksOpen = true →
    let frames := bodies.mapIdx fun n b => encodeWord (BitVec.ofNat 8 n) b
    (∃ t, runFrames frames s = .next t)
      ∧ ∀ n (h : n < frames.length) (t : State),
          runFrames (frames.take n) s = .next t → accepts frames[n] t.arch = true

/-! ## The rotary stage -/

/-- R91, with its corner cases: the one event carries the non-zero s16 value of pos -_16 lastPos. -/
def Obligations.ChangedPositionGivesOneDelta : Prop :=
  ∀ (F : Frame) (S : Arch), framePos F ≠ S.lastPos →
    ∃ d : Position, rotaryEvent F S = some (.rotary d)
      ∧ rotaryStage F S = { S with lastPos := framePos F }
      ∧ d.toInt ≠ 0 ∧ -32768 ≤ d.toInt ∧ d.toInt ≤ 32767
      ∧ (65536 : Int) ∣ (framePos F).toNat - S.lastPos.toNat - d.toInt

/-- R92: nothing is written and no event is emitted. -/
def Obligations.UnchangedPositionGivesNothing : Prop :=
  ∀ (F : Frame) (S : Arch), framePos F = S.lastPos → rotaryEvent F S = none ∧ rotaryStage F S = S

/-- R93: the transaction of a frame has one rotary event, with the plain difference as its delta, when
the frame is accepted with a changed position, and none otherwise; a stale frame leaves lastPos alone. -/
def Obligations.FrameHasAtMostOneRotaryEvent : Prop :=
  ∀ (p : Params) (F : Frame) (S T : Arch) (evs : List Event), transaction p F S = some (T, evs) →
    (evs.filter fun e => !isSwitch e)
        = (if accepts F S = true ∧ framePos F ≠ (resyncStage F S).lastPos
            then [.rotary (framePos F - (resyncStage F S).lastPos)] else [])
      ∧ (accepts F S = false → T.lastPos = S.lastPos)

/-- The deltas delivered over any run of frames none of which resyncs sum, modulo 65536, to the
difference of the positions (R95; the stale frames among them add nothing). -/
def Obligations.DeltasSumToThePositionDifference : Prop :=
  ∀ (frames : List Frame) (s t : State),
    (∀ F ∈ frames, frameCounter F ≠ 0#8) → s.takesFrame = true → s.sinksOpen = true →
    runFrames frames s = .next t →
    ∃ evs, t.delivered = s.delivered ++ evs
      ∧ (evs.map eventDelta).sum = t.arch.lastPos - s.arch.lastPos

/-! ## The edge detector -/

/-- CLASSIFY.BIT (R101), bit by bit, for the eight channels and their bytes: Primary when a bit is set in
the byte and in the primary mask; else Extended when one is set in the byte and in the extended mask;
else None. For center the bits [7:4] of byte 3 do not matter. The last line is the rule's example. -/
def Obligations.IndependentBitClassification : Prop :=
  (∀ (m : Masks) (raw : Byte),
    (classifyBit m raw = .primary ↔ ∃ i < 8, raw.getLsbD i = true ∧ m.primary.getLsbD i = true)
      ∧ (classifyBit m raw = .extended ↔
          (∀ i < 8, ¬(raw.getLsbD i = true ∧ m.primary.getLsbD i = true))
            ∧ ∃ i < 8, raw.getLsbD i = true ∧ m.extended.getLsbD i = true)
      ∧ (classifyBit m raw = .released ↔
          ∀ i < 8, ¬(raw.getLsbD i = true ∧ (m.primary.getLsbD i = true ∨ m.extended.getLsbD i = true))))
    ∧ (∀ (p : Params) (F : Frame),
      classify p F .center = classifyBit p.center (frameByte F 3)
        ∧ classify p F .menu = classifyBit p.menu (frameByte F 4)
        ∧ classify p F .back = classifyBit p.back (frameByte F 4)
        ∧ classify p F .com = classifyBit p.com (frameByte F 5)
        ∧ classify p F .option = classifyBit p.option (frameByte F 5)
        ∧ classify p F .media = classifyBit p.media (frameByte F 6)
        ∧ classify p F .nav = classifyBit p.nav (frameByte F 6)
        ∧ classify p F .map = classifyBit p.map (frameByte F 7))
    ∧ (∀ (c : Configuration) (F G : Frame), frameB3lo F = frameB3lo G →
      classify c.params F .center = classify c.params G .center)
    ∧ classifyBit ⟨0x01#8, 0x02#8⟩ 0x03#8 = .primary
    ∧ classifyBit ⟨0x01#8, 0x02#8⟩ 0x02#8 = .extended
    ∧ classifyBit ⟨0x01#8, 0x02#8⟩ 0xFC#8 = .released

/-- CLASSIFY.NIB (R102) for the four directions: an exact match of all four bits of dirnib with the
primary value, else with the extended value, else None; a value in none of the eight entries gives None
for all four. The last clauses are the rule's examples, 0xA and 0xB. -/
def Obligations.SharedNibbleClassification : Prop :=
  (∀ (n : Nibbles) (dirnib : Nibble),
    (classifyNib n dirnib = .primary ↔ dirnib = n.primary)
      ∧ (classifyNib n dirnib = .extended ↔ dirnib ≠ n.primary ∧ dirnib = n.extended)
      ∧ (classifyNib n dirnib = .released ↔ dirnib ≠ n.primary ∧ dirnib ≠ n.extended))
    ∧ (∀ (p : Params) (F : Frame),
      classify p F .left = classifyNib leftNibbles (frameDirnib F)
        ∧ classify p F .up = classifyNib p.up (frameDirnib F)
        ∧ classify p F .right = classifyNib p.right (frameDirnib F)
        ∧ classify p F .down = classifyNib p.down (frameDirnib F))
    ∧ (∀ (c : Configuration) (F : Frame),
      (frameDirnib F ∉ c.params.nibbleTable → ∀ d ∈ directions, classify c.params F d = .released)
        ∧ 0x0#4 ∉ c.params.nibbleTable
        ∧ (frameDirnib F = 0xA#4 → classify c.params F .left = .primary
            ∧ ∀ d ∈ directions, d ≠ .left → classify c.params F d = .released)
        ∧ (frameDirnib F = 0xB#4 → classify c.params F .left = .extended
            ∧ ∀ d ∈ directions, d ≠ .left → classify c.params F d = .released))

/-- A dirnib that is none of the eight table values classifies all four directions as None, and in a
legal configuration 0x0 is such a value (R61). -/
def Obligations.UnlistedNibbleEngagesNoDirection : Prop :=
  ∀ (c : Configuration) (F : Frame),
    (frameDirnib F ∉ c.params.nibbleTable →
      ∀ d ∈ directions, classify c.params F d = .released)
      ∧ 0x0#4 ∉ c.params.nibbleTable

/-- In every frame at most one direction classifies as anything but None (R103). -/
def Obligations.AtMostOneDirectionPerFrame : Prop :=
  ∀ (c : Configuration) (F : Frame) (a b : Channel), a ∈ directions → b ∈ directions →
    classify c.params F a ≠ .released → classify c.params F b ≠ .released → a = b

/-- The transition table, row by row, with the refused row of 11, and its Boolean rule: an event arises
exactly when `(prev = 00) XOR (raw = 00)` (R104). -/
def Obligations.TransitionTableRows : Prop :=
  transition 0b00#2 .released = some (.released, none)
    ∧ transition 0b00#2 .primary = some (.primary, some .enteredPrimary)
    ∧ transition 0b00#2 .extended = some (.extended, some .enteredExtended)
    ∧ transition 0b10#2 .released = some (.released, some .released)
    ∧ transition 0b10#2 .primary = some (.primary, none)
    ∧ transition 0b10#2 .extended = some (.extended, none)
    ∧ transition 0b01#2 .released = some (.released, some .released)
    ∧ transition 0b01#2 .primary = some (.primary, none)
    ∧ transition 0b01#2 .extended = some (.extended, none)
    ∧ (∀ raw, transition 0b11#2 raw = none)
    ∧ classCode .released = 0b00#2 ∧ classCode .primary = 0b10#2 ∧ classCode .extended = 0b01#2
    ∧ ∀ prev raw new ev, transition prev raw = some (new, ev) →
        new = raw ∧ ev = expectedKind prev raw
          ∧ (ev.isSome = true ↔ ¬(prev = 0b00#2 ↔ classCode raw = 0b00#2))

/-- R106: one turn of the loop replaces the one field whole by the table's new value, which is the raw
code and never 11; every other field of the latch bytes, and both other registers, stay. -/
def Obligations.EdgeWriteTouchesOneField : Prop :=
  ∀ (p : Params) (F : Frame) (ch : Channel) (S : Arch),
    let T := channelWrite p F ch S
    (∀ new ev, transition (readField S ch) (classify p F ch) = some (new, ev) →
        readField T ch = classCode new)
      ∧ readField T ch = classCode (classify p F ch) ∧ readField T ch ≠ 0b11#2
      ∧ (∀ other, other ≠ ch → readField T other = readField S other)
      ∧ T.lastCounter = S.lastCounter ∧ T.lastPos = S.lastPos

/-- In an accepted DECODE a channel's event is delivered exactly when its latch and its classification
differ in being None, at most one per channel; a direct swap between Primary and Extended is silent
(R104, R105). -/
def Obligations.EventExactlyWhenEngagementChanges : Prop :=
  ∀ (c : Byte) (b : Body) (s t : State) (ch : Channel),
    c ≠ 0#8 → s.takesFrame = true → s.sinksOpen = true → (c - s.arch.lastCounter).toNat ≤ 127 →
    exec (.decode c b) s = .next t →
    ∃ evs, t.delivered = s.delivered ++ evs
      ∧ (evs.filter (isSwitchOf ch)).length
        = if (readField s.arch ch = 0b00#2)
              ↔ (classify s.config.params (encodeWord c b) ch = .released) then 0 else 1

/-- The events of one frame operation stand in one total order: the rotary event, of which there is
at most one, then the switch events in channel order, at most one per channel (R49, R143). -/
def Obligations.EventsComeInTotalOrder : Prop :=
  ∀ (F : Frame) (s t : State), s.takesFrame = true → s.sinksOpen = true →
    exec (decodeWord F) s = .next t →
    ∃ evs, t.delivered = s.delivered ++ evs ∧ (evs.map eventRank).Pairwise (· < ·)

/-- In a state with at most one direction engaged, as every state reached from RESET, one frame
delivers at most 10 switch events and at most 11 events (R108, C6). -/
def Obligations.ReachableFrameDeliversAtMostElevenEvents : Prop :=
  ∀ (F : Frame) (s t : State), s.inv = true → s.takesFrame = true → s.sinksOpen = true →
    exec (decodeWord F) s = .next t →
    ∃ evs, t.delivered = s.delivered ++ evs ∧ evs.length ≤ 11 ∧ (evs.filter isSwitch).length ≤ 10

/-- After an accepted frame the latch bytes do not depend on the state before it (R27, R107). -/
def Obligations.LatchBytesDependOnTheLastAcceptedFrameOnly : Prop :=
  ∀ (F : Frame) (s₁ s₂ t₁ t₂ : State),
    s₁.config = s₂.config → s₁.takesFrame = true → s₂.takesFrame = true →
    s₁.sinksOpen = true → s₂.sinksOpen = true →
    accepts F s₁.arch = true → accepts F s₂.arch = true →
    exec (decodeWord F) s₁ = .next t₁ → exec (decodeWord F) s₂ = .next t₂ →
    t₁.arch.l0 = t₂.arch.l0 ∧ t₁.arch.l1 = t₂.arch.l1 ∧ t₁.arch.l2 = t₂.arch.l2

/-- Presenting the same accepted frame twice, its counter not 0: the second copy is accepted, delivers
nothing and changes nothing (R47, R109). -/
def Obligations.RepeatedFrameIsIdempotent : Prop :=
  ∀ (c : Byte) (b : Body) (s t : State),
    c ≠ 0#8 → s.takesFrame = true → s.sinksOpen = true → (c - s.arch.lastCounter).toNat ≤ 127 →
    exec (.decode c b) s = .next t →
    accepts (encodeWord c b) t.arch = true ∧ exec (.decode c b) t = .next t

/-- With counter 0 it is not idempotent: the second copy delivers again all that the first did (R47, C4). -/
def Obligations.RepeatedResyncReportsAgain : Prop :=
  ∀ (b : Body) (s t : State), s.takesFrame = true → s.sinksOpen = true →
    exec (.decodeResync b) s = .next t →
    ∃ evs u, t.delivered = s.delivered ++ evs ∧ exec (.decodeResync b) t = .next u
      ∧ u.delivered = t.delivered ++ evs ∧ u.arch = t.arch

/-- EVENT_CODE of a legal configuration takes each code 1..36 for exactly one channel and kind (R8 item
6, R65). -/
def Obligations.EventCodesAreABijection : Prop :=
  ∀ c : Configuration,
    (∀ ch k, 1 ≤ (eventCode c.params ch k).toNat ∧ (eventCode c.params ch k).toNat ≤ 36)
      ∧ ∀ n, 1 ≤ n → n ≤ 36 →
          ∃ ch k, (eventCode c.params ch k).toNat = n
            ∧ ∀ ch' k', (eventCode c.params ch' k').toNat = n → ch' = ch ∧ k' = k

/-! ## Waiting for a sink -/

/-- An accepted frame operation whose rotary sink is not ready stops in ROT with the event presented:
the resync and the counter are written, lastPos and the latches are not, nothing is delivered (R141,
R145; the spec's own decisions D12, D13). The operation has not ended there (R123): that exec answers
this wait as its next state is the model's choice, log entry 7. -/
def Obligations.UnreadyRotarySinkHoldsTheFrame : Prop :=
  ∀ (F : Frame) (s : State),
    s.takesFrame = true → accepts F s.arch = true → (resyncStage F s.arch).latchesLegal = true →
    framePos F ≠ (resyncStage F s.arch).lastPos → s.pins.rotReady = false →
    exec (decodeWord F) s = .next { s with
      arch := { resyncStage F s.arch with lastCounter := frameCounter F }, phase := .rot, frame := F }

/-- An accepted frame operation whose switch sink is not ready stops in CH at the first channel with
an event, after the rotary event, if there is one, has been delivered; the channels before it hold
this frame's classification, the others what they held (R141, R145; the spec's own decisions D12,
D13). The operation has not ended there (R123): that exec answers this wait as its next state is the
model's choice, log entry 7. -/
def Obligations.UnreadySwitchSinkHoldsAtTheFirstEvent : Prop :=
  ∀ (F : Frame) (s : State),
    s.takesFrame = true → accepts F s.arch = true → (resyncStage F s.arch).latchesLegal = true →
    (framePos F = (resyncStage F s.arch).lastPos ∨ s.pins.rotReady = true) → s.pins.swReady = false →
    expectedSwitches s.config.params F (resyncStage F s.arch) ≠ [] →
    ∃ t, exec (decodeWord F) s = .next t ∧ t.phase = .ch ∧ t.stalled = true
      ∧ expectedSwitch s.config.params F (resyncStage F s.arch) t.chan ≠ none
      ∧ (∀ ch, channelIndex ch < channelIndex t.chan →
          expectedSwitch s.config.params F (resyncStage F s.arch) ch = none)
      ∧ (∀ ch, readField t.arch ch = if channelIndex ch < channelIndex t.chan
          then classCode (classify s.config.params F ch) else readField (resyncStage F s.arch) ch)
      ∧ t.delivered = s.delivered ++ expectedRotary (framePos F) (resyncStage F s.arch).lastPos
      ∧ t.arch.lastCounter = frameCounter F ∧ t.arch.lastPos = framePos F ∧ t.frame = F
      ∧ t.pins = s.pins ∧ t.config = s.config ∧ t.wasReset = s.wasReset ∧ t.freeCount = s.freeCount

/-- A sink that has no event to take need not be ready: the operation completes, with the result of
R122, where each event's own sink is ready (R123, R141; phase and F: the spec's own decision D13). -/
def Obligations.OperationCompletesWhereItsEventsAreTaken : Prop :=
  ∀ (F : Frame) (s : State) (S : Arch) (evs : List Event),
    s.takesFrame = true → transaction s.config.params F s.arch = some (S, evs) →
    (∀ e ∈ evs, sinkReady s.pins e = true) →
    ∃ t, exec (decodeWord F) s = .next t ∧ t.arch = S ∧ t.delivered = s.delivered ++ evs
      ∧ t.phase = .idle ∧ t.frame = F ∧ t.pins = s.pins ∧ t.config = s.config

/-- A step ends only where the core waits: in IDLE, or with an event presented to a sink that is not
ready (R172, the spec's own decision D24; that a step runs up to a wait is the model's choice, log
entry 7). -/
def Obligations.EveryStepEndsInAWait : Prop :=
  ∀ s t : State, s.wasReset = true → step s = .next t → t.phase = .idle ∨ t.stalled = true

/-- A sink that never raises ready holds the core for ever: no number of edges without rst, whatever
else the host drives, changes any register or delivers anything (R148, R189, U10; the spec's own
decision D12). -/
def Obligations.NeverReadySinkHangsTheCore : Prop :=
  ∀ (s t : State) (e : Event) (ps : List Pins),
    s.wasReset = true → s.pins.rst = false → presented s = some (some e) →
    (∀ p ∈ ps, p.rst = false ∧ sinkReady p e = false) →
    runEdges ps s = .next t →
    t.arch = s.arch ∧ t.phase = s.phase ∧ t.frame = s.frame ∧ t.chan = s.chan
      ∧ t.delivered = s.delivered

/-- A frame held up by a sink is finished by the next step once both sinks are ready, with the result
and the events of R122, as if it had not been held up (R126, which the spec derives; the step that
finishes it is the model's choice, log entry 7). -/
def Obligations.HeldFrameIsFinishedLater : Prop :=
  ∀ (F : Frame) (s t : State) (p : Pins),
    s.takesFrame = true → exec (decodeWord F) s = .next t → t.phase ≠ .idle →
    p.rst = false → p.rotReady = true → p.swReady = true →
    ∃ u S evs, step (t.withPins p) = .next u ∧ transaction s.config.params F s.arch = some (S, evs)
      ∧ u.arch = S ∧ u.delivered = s.delivered ++ evs ∧ u.phase = .idle

/-! ## The cycle-level realisation -/

/-- R154: whatever the sinks and the host do at each edge, as long as rst stays 0, the state in which
phase is IDLE again holds the post-state of the transaction, and exactly its events were delivered,
in order. The edges are the spec's own decision D13. -/
def Obligations.RealisationRefinesTheTransaction : Prop :=
  ∀ (F : Frame) (s t : State) (ps : List Pins),
    s.takesFrame = true → (∀ p ∈ ps, p.rst = false) → runToIdle ps (s.capture F) = some t →
    ∃ S evs, transaction s.config.params F s.arch = some (S, evs)
      ∧ t.arch = S ∧ t.delivered = s.delivered ++ evs ∧ t.phase = .idle

/-- 14 edges from the handshake to IDLE for an accepted frame, 1 for a stale one, and one more for
each cycle in which a presented event's sink is not ready (R147, R191; the spec's own decision D21). -/
def Obligations.FrameTakesFourteenEdgesPlusStalls : Prop :=
  ∀ (F : Frame) (s t : State) (ps : List Pins),
    s.takesFrame = true → (∀ p ∈ ps, p.rst = false) → runToIdle ps (s.capture F) = some t →
    ps.length = (if accepts F s.arch then 14 else 1) + stallCycles ps (s.capture F)

/-- With sinks that are always ready the frame does complete, in just that many edges, and in the
state of the frame operation (R148; the spec's own decision D21). -/
def Obligations.ReadySinksCompleteTheFrameInTime : Prop :=
  ∀ (F : Frame) (s : State), s.takesFrame = true → s.sinksOpen = true →
    s.arch.latchesLegal = true →
    ∃ t, runToIdle (List.replicate (if accepts F s.arch then 14 else 1) s.pins) (s.capture F) = some t
      ∧ exec (decodeWord F) s = .next t

/-- The frame handshake (R140): in IDLE an offered frame is captured and nothing else happens; with no
offer every register keeps its value (the spec's own decision D13). -/
def Obligations.HandshakeCapturesTheFrame : Prop :=
  ∀ s : State, s.wasReset = true → s.pins.rst = false → s.phase = .idle →
    (s.pins.frameValid = true → edge s = .next { s with frame := s.pins.frameData, phase := .guard })
      ∧ (s.pins.frameValid = false → edge s = .next s ∧ step s = .next s)

/-- Once captured, a frame does not see the frame port: in mid-frame the edge is the same whatever
frame_valid and frame_data are (R46, R52; the spec's own decisions D4, D13). -/
def Obligations.FramePortIsIgnoredInMidFrame : Prop :=
  ∀ (s t : State) (p q : Pins), s.wasReset = true → s.phase ≠ .idle →
    p.rst = q.rst → p.rotReady = q.rotReady → p.swReady = q.swReady →
    edge (s.withPins p) = .next t → edge (s.withPins q) = .next (t.withPins q)

/-- A presented event that does not transfer is presented again, unchanged, in the next cycle, whatever
the host drives there but rst (R141; the spec's own decision D12). -/
def Obligations.PresentedEventStaysUntilTaken : Prop :=
  ∀ (s : State) (e : Event) (p : Pins), s.wasReset = true → s.pins.rst = false →
    presented s = some (some e) → sinkReady s.pins e = false → p.rst = false →
    ∃ t, edge s = .next t ∧ presented (t.withPins p) = some (some e)

/-- An edge delivers the presented event if its sink is ready, and else nothing; at an edge with
rst = 1 it delivers nothing (R141, R142, R144; the spec's own decisions D4, D12). -/
def Obligations.EdgeDeliversExactlyTheTakenEvent : Prop :=
  ∀ s t : State, s.wasReset = true → edge s = .next t →
    t.delivered = s.delivered ++ (match presented s with
      | some (some e) => if sinkReady s.pins e then [e] else []
      | _ => [])

/-- The output ports carry the presented event and no other, one valid at most, with no reserved value
(R66, R135, R142, R145; the spec's own decisions D11, D13). -/
def Obligations.OutputsCarryThePresentedEvent : Prop :=
  ∀ (s : State) (o : Outputs), outputs s = some o →
    (o.frameReady = true ↔ s.phase = .idle ∧ s.pins.rst = false)
      ∧ (o.rotValid = true ↔ ∃ d, presented s = some (some (.rotary d)) ∧ o.rotDelta = some d)
      ∧ (o.swValid = true ↔ ∃ ch k code, presented s = some (some (.switch ch k code))
          ∧ o.swChannel = some (BitVec.ofNat 4 (channelIndex ch).val)
          ∧ o.swKind = some (kindCode k) ∧ o.swCode = some code
          ∧ code = eventCode s.config.params ch k ∧ 1 ≤ code.toNat ∧ code.toNat ≤ 36)
      ∧ ¬(o.rotValid = true ∧ o.swValid = true)

/-! ## Invariants -/

/-- The state after RESET satisfies the invariant. -/
def Obligations.ResetStateSatisfiesTheInvariant : Prop := State.reset.inv = true

/-- Every step keeps the invariant: legal latches, chan 0 outside the walk, at most one direction
engaged (R26, R103, R108; chan and the walk are the realisation's, the spec's own decision D13). -/
def Obligations.StepKeepsTheInvariant : Prop :=
  ∀ s t : State, s.inv = true → step s = .next t → t.inv = true

/-- So does every edge, within a frame too, and every move of the host. -/
def Obligations.EdgeKeepsTheInvariant : Prop :=
  ∀ (s t : State) (p : Pins), s.inv = true → edge (s.withPins p) = .next t → t.inv = true

/-- No step changes what the host drives or how the core was built, takes back a delivered event, or
undoes a RESET (R135, R124; the spec's own decision D22; that the ports' levels and the delivered events
are fields of the state is the model's choice, log entries 8 and 10). -/
def Obligations.StepKeepsInputsAndDeliveries : Prop :=
  ∀ s t : State, step s = .next t →
    t.pins = s.pins ∧ t.config = s.config ∧ s.delivered <+: t.delivered
      ∧ (s.wasReset = true → t.wasReset = true)
end

