-- ==== Sys2Proof/Laws/Fields.lean ====
section
/-! SUPPORT. What reading and writing a latch field does (R24, R106), and the 2-bit codes (R25). -/

namespace Sys2Proof.Machine

theorem byteField_setByteField (b : Byte) (i : Fin 4) (v : BitVec 2) :
    byteField (setByteField b i v) i = v := by
  revert b v; fin_cases i <;> decide

theorem byteField_setByteField_of_ne (b : Byte) (i j : Fin 4) (v : BitVec 2) (h : i ≠ j) :
    byteField (setByteField b i v) j = byteField b j := by
  revert b v; fin_cases i <;> fin_cases j <;> first | exact absurd rfl h | decide

/-- A latch byte is its four fields (R24). -/
theorem byte_eq_of_fields (a b : Byte) (h : ∀ i, byteField a i = byteField b i) : a = b := by
  have e : ∀ c : Byte, c = byteField c 3 ++ byteField c 2 ++ byteField c 1 ++ byteField c 0 := by decide
  rw [e a, e b, h 0, h 1, h 2, h 3]

theorem latchPlace_injective {a b : Channel} (h : latchPlace a = latchPlace b) : a = b := by
  revert h; cases a <;> cases b <;> decide

@[simp] theorem readField_writeField (S : Arch) (ch : Channel) (v : BitVec 2) :
    readField (writeField S ch v) ch = v := by
  cases ch <;> exact byteField_setByteField _ _ _

theorem readField_writeField_of_ne (S : Arch) (v : BitVec 2) {a b : Channel} (h : a ≠ b) :
    readField (writeField S a v) b = readField S b := by
  cases a <;> cases b <;>
    first
    | exact absurd rfl h
    | rfl
    | exact byteField_setByteField_of_ne _ _ _ _ (by decide)

@[simp] theorem writeField_lastCounter (S : Arch) (ch : Channel) (v : BitVec 2) :
    (writeField S ch v).lastCounter = S.lastCounter := by cases ch <;> rfl

@[simp] theorem writeField_lastPos (S : Arch) (ch : Channel) (v : BitVec 2) :
    (writeField S ch v).lastPos = S.lastPos := by cases ch <;> rfl

/-- S0-S4 are the counter, the position and the 12 latch fields (R20, R24). -/
theorem Arch.eq_of_fields {S T : Arch} (hc : S.lastCounter = T.lastCounter) (hp : S.lastPos = T.lastPos)
    (hf : ∀ ch, readField S ch = readField T ch) : S = T := by
  obtain ⟨c, p, a, b, d⟩ := S
  obtain ⟨c', p', a', b', d'⟩ := T
  have ha : a = a' := byte_eq_of_fields _ _ fun i => by
    fin_cases i; exacts [hf .center, hf .left, hf .up, hf .right]
  have hb : b = b' := byte_eq_of_fields _ _ fun i => by
    fin_cases i; exacts [hf .down, hf .menu, hf .back, hf .com]
  have hd : d = d' := byte_eq_of_fields _ _ fun i => by
    fin_cases i; exacts [hf .option, hf .media, hf .nav, hf .map]
  simp_all

theorem writeField_readField (S : Arch) (ch : Channel) : writeField S ch (readField S ch) = S := by
  refine Arch.eq_of_fields (by simp) (by simp) fun c => ?_
  by_cases h : ch = c
  · subst h; simp
  · exact readField_writeField_of_ne _ _ h

theorem mem_channelOrder (ch : Channel) : ch ∈ channelOrder := by cases ch <;> decide

theorem nodup_channelOrder : channelOrder.Nodup := by decide

theorem latchesLegal_iff (S : Arch) : S.latchesLegal = true ↔ ∀ ch, readField S ch ≠ 0b11#2 := by
  simp only [Arch.latchesLegal, List.all_eq_true, bne_iff_ne]
  exact ⟨fun h ch => h ch (mem_channelOrder ch), fun h ch _ => h ch⟩

@[simp] theorem readField_initialArch (ch : Channel) : readField initialArch ch = 0b00#2 := by
  cases ch <;> decide

theorem classCode_ne_eleven (c : Classification) : classCode c ≠ 0b11#2 := by cases c <;> decide

theorem classCode_injective {a b : Classification} (h : classCode a = classCode b) : a = b := by
  revert h; cases a <;> cases b <;> decide

@[simp] theorem classCode_eq_zero (c : Classification) : classCode c = 0b00#2 ↔ c = .released := by
  cases c <;> decide

end Sys2Proof.Machine
end

