-- ==== Sys2Proof/Laws/Stages.lean ====
section
/-! SUPPORT. What each stage of a frame operation can do, said once: the guard (R80 to R83), the
rotary stage (R90 to R92), one turn of the channel loop and the whole loop (R100 to R106), and the
transaction made of them (R122). -/

namespace Sys2Proof.Machine

/-- The event column is the Boolean rule of R104. -/
theorem transitionEvent_eq (prev : BitVec 2) (raw : Classification) :
    transitionEvent prev raw = expectedKind prev raw := by
  unfold transitionEvent expectedKind
  by_cases h : prev = 0b00#2 <;> cases raw <;> simp [h]

/-- The event of one turn of the loop is the expected one. -/
theorem channelEvent_eq (p : Params) (F : Frame) (ch : Channel) (S : Arch) :
    channelEvent p F ch S = expectedSwitch p F S ch := by
  rw [channelEvent, transitionEvent_eq, expectedSwitch]

@[simp] theorem readField_channelWrite (p : Params) (F : Frame) (ch : Channel) (S : Arch) :
    readField (channelWrite p F ch S) ch = classCode (classify p F ch) := readField_writeField _ _ _

theorem readField_channelWrite_of_ne (p : Params) (F : Frame) (S : Arch) {a b : Channel} (h : a ≠ b) :
    readField (channelWrite p F a S) b = readField S b := readField_writeField_of_ne _ _ h

@[simp] theorem channelWrite_lastCounter (p : Params) (F : Frame) (ch : Channel) (S : Arch) :
    (channelWrite p F ch S).lastCounter = S.lastCounter := writeField_lastCounter _ _ _

@[simp] theorem channelWrite_lastPos (p : Params) (F : Frame) (ch : Channel) (S : Arch) :
    (channelWrite p F ch S).lastPos = S.lastPos := writeField_lastPos _ _ _

theorem posChanged_iff (pos lastPos : Position) : posChanged pos lastPos = true ↔ pos ≠ lastPos := by
  simp [posChanged, BitVec.xor_eq_zero_iff]

theorem rotaryEvent_toList (F : Frame) (S : Arch) :
    (rotaryEvent F S).toList = expectedRotary (framePos F) S.lastPos := by
  unfold rotaryEvent expectedRotary
  by_cases h : framePos F = S.lastPos <;> simp [h, posChanged]

/-- The rotary stage leaves lastPos equal to the frame's pos in both outcomes (R94). -/
theorem rotaryStage_eq (F : Frame) (S : Arch) : rotaryStage F S = { S with lastPos := framePos F } := by
  unfold rotaryStage
  split
  · rfl
  · next h =>
    rw [posChanged_iff, not_not] at h
    rw [h]

theorem readField_rotaryStage (F : Frame) (S : Arch) (ch : Channel) :
    readField (rotaryStage F S) ch = readField S ch := by
  rw [rotaryStage_eq]; cases ch <;> rfl

theorem resyncStage_of_zero {F : Frame} (h : frameCounter F = 0#8) (S : Arch) :
    resyncStage F S = initialArch := if_pos h

theorem resyncStage_of_ne {F : Frame} (h : frameCounter F ≠ 0#8) (S : Arch) :
    resyncStage F S = S := if_neg h

/-- A counter-0 frame is always accepted (R84). -/
theorem accepts_of_zero {F : Frame} (h : frameCounter F = 0#8) (S : Arch) : accepts F S = true := by
  simp [accepts, resyncStage_of_zero h, h, initialArch, counterDiff, isStale]

theorem accepts_of_ne {F : Frame} (h : frameCounter F ≠ 0#8) (S : Arch) :
    accepts F S = decide ((frameCounter F - S.lastCounter).toNat ≤ 127) := by
  simp only [accepts, resyncStage_of_ne h, counterDiff, isStale]
  rw [Bool.eq_iff_iff, Bool.not_eq_true', decide_eq_false_iff_not, decide_eq_true_iff, Nat.not_lt]

theorem guardStage_of_accepts {F : Frame} {S : Arch} (h : accepts F S = true) :
    guardStage F S = { resyncStage F S with lastCounter := frameCounter F } := if_pos h

/-- A stale frame writes nothing (R81): its counter is not 0, so nothing was resynced either. -/
theorem guardStage_of_stale {F : Frame} {S : Arch} (h : accepts F S = false) : guardStage F S = S := by
  have hc : frameCounter F ≠ 0#8 := fun h0 => by simp [accepts_of_zero h0] at h
  simp [guardStage, h, resyncStage_of_ne hc]

/-- The guard never writes a latch field but by the resync, which clears it (R80, R82). -/
theorem readField_guardStage (F : Frame) (S : Arch) (ch : Channel) :
    readField (guardStage F S) ch = readField (resyncStage F S) ch := by
  unfold guardStage; split
  · cases ch <;> rfl
  · rfl

theorem expectedSwitch_congr {p : Params} {F : Frame} {S T : Arch} {ch : Channel}
    (h : readField S ch = readField T ch) : expectedSwitch p F S ch = expectedSwitch p F T ch := by
  unfold expectedSwitch; rw [h]

/-- The loop over distinct channels: each field takes its classification, no other field and neither of
the other registers changes, and the events are the expected ones in order (R100). -/
theorem channelLoop_eq (p : Params) (F : Frame) :
    ∀ (chs : List Channel) (S : Arch), chs.Nodup →
      (channelLoop p F chs S).2 = chs.filterMap (expectedSwitch p F S)
        ∧ (channelLoop p F chs S).1.lastCounter = S.lastCounter
        ∧ (channelLoop p F chs S).1.lastPos = S.lastPos
        ∧ ∀ ch, readField (channelLoop p F chs S).1 ch
            = if ch ∈ chs then classCode (classify p F ch) else readField S ch := by
  intro chs
  induction chs with
  | nil => intro S _; exact ⟨rfl, rfl, rfl, by simp [channelLoop]⟩
  | cons a rest ih =>
    intro S hn
    have ha : a ∉ rest := (List.nodup_cons.1 hn).1
    have hne : ∀ ch ∈ rest, a ≠ ch := fun ch hc h => ha (h ▸ hc)
    obtain ⟨he, hc, hp, hf⟩ := ih (channelWrite p F a S) (List.nodup_cons.1 hn).2
    have hev : rest.filterMap (expectedSwitch p F (channelWrite p F a S))
        = rest.filterMap (expectedSwitch p F S) :=
      List.filterMap_congr fun ch h => expectedSwitch_congr (readField_channelWrite_of_ne p F S (hne ch h))
    refine ⟨?_, by simpa [channelLoop] using hc, by simpa [channelLoop] using hp, fun ch => ?_⟩
    · rw [List.filterMap_cons, channelLoop, he, hev, channelEvent_eq]
      cases expectedSwitch p F S a <;> rfl
    · rw [channelLoop, hf ch]
      by_cases h : a = ch
      · subst h; simp [ha]
      · have h' : ch ≠ a := fun e => h e.symm
        simp [h', readField_channelWrite_of_ne p F S h]

/-- The stages after the guard: the closed form of R122's lines 4.2 and 4.3. -/
theorem acceptedStages_eq (p : Params) (F : Frame) (S : Arch) :
    (acceptedStages p F S).2 = expectedRotary (framePos F) S.lastPos ++ expectedSwitches p F S
      ∧ (acceptedStages p F S).1.lastCounter = S.lastCounter
      ∧ (acceptedStages p F S).1.lastPos = framePos F
      ∧ ∀ ch, readField (acceptedStages p F S).1 ch = classCode (classify p F ch) := by
  obtain ⟨hT, hc, hp, hf⟩ := channelLoop_eq p F channelOrder (rotaryStage F S) nodup_channelOrder
  have he : channelOrder.filterMap (expectedSwitch p F (rotaryStage F S)) = expectedSwitches p F S :=
    List.filterMap_congr fun ch _ => expectedSwitch_congr (readField_rotaryStage F S ch)
  refine ⟨?_, ?_, ?_, fun ch => ?_⟩
  · simp [acceptedStages, hT, he, rotaryEvent_toList]
  · rw [acceptedStages, hc, rotaryStage_eq]
  · rw [acceptedStages, hp, rotaryStage_eq]
  · rw [acceptedStages, hf ch, if_pos (mem_channelOrder ch)]

/-- The transaction on a stale frame (R81). -/
theorem transaction_of_stale (p : Params) {F : Frame} {S : Arch} (h : accepts F S = false) :
    transaction p F S = some (S, []) := by
  simp [transaction, h, guardStage_of_stale h]

/-- The transaction on an accepted frame whose latches, after the resync if there is one, are legal. -/
theorem transaction_of_accepts (p : Params) {F : Frame} {S : Arch} (h : accepts F S = true)
    (hl : ∀ ch, readField (resyncStage F S) ch ≠ 0b11#2) :
    ∃ T, transaction p F S
          = some (T, expectedRotary (framePos F) (resyncStage F S).lastPos
              ++ expectedSwitches p F (resyncStage F S))
      ∧ T.lastCounter = frameCounter F ∧ T.lastPos = framePos F
      ∧ ∀ ch, readField T ch = classCode (classify p F ch) := by
  obtain ⟨hT, hc, hp, hf⟩ := acceptedStages_eq p F (guardStage F S)
  have hg : (guardStage F S).latchesLegal = true :=
    (latchesLegal_iff _).2 fun ch => by rw [readField_guardStage]; exact hl ch
  have he : expectedSwitches p F (guardStage F S) = expectedSwitches p F (resyncStage F S) :=
    List.filterMap_congr fun ch _ => expectedSwitch_congr (readField_guardStage F S ch)
  refine ⟨(acceptedStages p F (guardStage F S)).1, ?_, ?_, hp, hf⟩
  · simp only [transaction, h, hg, Bool.not_true, Bool.false_eq_true, if_false, if_true]
    rw [he, guardStage_of_accepts h] at hT
    rw [guardStage_of_accepts h, ← hT]
  · rw [hc, guardStage_of_accepts h]

/-- Only an accepted frame that meets a field of 11 is outside the transaction (R26, R104). -/
theorem transaction_eq_none_iff (p : Params) (F : Frame) (S : Arch) :
    transaction p F S = none
      ↔ accepts F S = true ∧ ∃ ch, readField (resyncStage F S) ch = 0b11#2 := by
  constructor
  · intro h
    cases ha : accepts F S with
    | false => simp [transaction_of_stale p ha] at h
    | true =>
      refine ⟨rfl, ?_⟩
      by_contra hl
      obtain ⟨T, hT, _⟩ := transaction_of_accepts p ha (not_exists.1 hl)
      simp [hT] at h
  · rintro ⟨ha, ch, hch⟩
    have hg : (guardStage F S).latchesLegal ≠ true := fun hg =>
      (latchesLegal_iff _).1 hg ch (by rw [readField_guardStage]; exact hch)
    simp [transaction, ha, hg]

end Sys2Proof.Machine
end

