-- ==== Sys2Proof/Laws/State.lean ====
section
/-! SUPPORT. One lemma per field per update of the state, so that no proof unfolds an update. -/

namespace Sys2Proof.Machine

section
variable (s : State)

@[simp] theorem State.withPins_arch (p : Pins) : (s.withPins p).arch = s.arch := rfl
@[simp] theorem State.withPins_phase (p : Pins) : (s.withPins p).phase = s.phase := rfl
@[simp] theorem State.withPins_frame (p : Pins) : (s.withPins p).frame = s.frame := rfl
@[simp] theorem State.withPins_chan (p : Pins) : (s.withPins p).chan = s.chan := rfl
@[simp] theorem State.withPins_pins (p : Pins) : (s.withPins p).pins = p := rfl
@[simp] theorem State.withPins_delivered (p : Pins) : (s.withPins p).delivered = s.delivered := rfl
@[simp] theorem State.withPins_config (p : Pins) : (s.withPins p).config = s.config := rfl
@[simp] theorem State.withPins_wasReset (p : Pins) : (s.withPins p).wasReset = s.wasReset := rfl
@[simp] theorem State.withPins_freeCount (p : Pins) : (s.withPins p).freeCount = s.freeCount := rfl

@[simp] theorem State.capture_arch (F : Frame) : (s.capture F).arch = s.arch := rfl
@[simp] theorem State.capture_phase (F : Frame) : (s.capture F).phase = .guard := rfl
@[simp] theorem State.capture_frame (F : Frame) : (s.capture F).frame = F := rfl
@[simp] theorem State.capture_chan (F : Frame) : (s.capture F).chan = s.chan := rfl
@[simp] theorem State.capture_pins (F : Frame) : (s.capture F).pins = s.pins := rfl
@[simp] theorem State.capture_delivered (F : Frame) : (s.capture F).delivered = s.delivered := rfl
@[simp] theorem State.capture_config (F : Frame) : (s.capture F).config = s.config := rfl
@[simp] theorem State.capture_wasReset (F : Frame) : (s.capture F).wasReset = s.wasReset := rfl
@[simp] theorem State.capture_freeCount (F : Frame) : (s.capture F).freeCount = s.freeCount := rfl

@[simp] theorem State.advance_arch (S : Arch) (ph : Phase) (ch : Channel) (evs : List Event) : (s.advance S ph ch evs).arch = S := rfl
@[simp] theorem State.advance_phase (S : Arch) (ph : Phase) (ch : Channel) (evs : List Event) : (s.advance S ph ch evs).phase = ph := rfl
@[simp] theorem State.advance_frame (S : Arch) (ph : Phase) (ch : Channel) (evs : List Event) : (s.advance S ph ch evs).frame = s.frame := rfl
@[simp] theorem State.advance_chan (S : Arch) (ph : Phase) (ch : Channel) (evs : List Event) : (s.advance S ph ch evs).chan = ch := rfl
@[simp] theorem State.advance_pins (S : Arch) (ph : Phase) (ch : Channel) (evs : List Event) : (s.advance S ph ch evs).pins = s.pins := rfl
@[simp] theorem State.advance_delivered (S : Arch) (ph : Phase) (ch : Channel) (evs : List Event) : (s.advance S ph ch evs).delivered = s.delivered ++ evs := rfl
@[simp] theorem State.advance_config (S : Arch) (ph : Phase) (ch : Channel) (evs : List Event) : (s.advance S ph ch evs).config = s.config := rfl
@[simp] theorem State.advance_wasReset (S : Arch) (ph : Phase) (ch : Channel) (evs : List Event) : (s.advance S ph ch evs).wasReset = s.wasReset := rfl
@[simp] theorem State.advance_freeCount (S : Arch) (ph : Phase) (ch : Channel) (evs : List Event) : (s.advance S ph ch evs).freeCount = s.freeCount := rfl

@[simp] theorem State.afterReset_arch : s.afterReset.arch = initialArch := rfl
@[simp] theorem State.afterReset_phase : s.afterReset.phase = .idle := rfl
@[simp] theorem State.afterReset_frame : s.afterReset.frame = Config.unspecifiedFrame s.freeCount := rfl
@[simp] theorem State.afterReset_chan : s.afterReset.chan = .center := rfl
@[simp] theorem State.afterReset_pins : s.afterReset.pins = s.pins := rfl
@[simp] theorem State.afterReset_delivered : s.afterReset.delivered = s.delivered := rfl
@[simp] theorem State.afterReset_config : s.afterReset.config = s.config := rfl
@[simp] theorem State.afterReset_wasReset : s.afterReset.wasReset = true := rfl
@[simp] theorem State.afterReset_freeCount : s.afterReset.freeCount = s.freeCount + 1 := rfl

@[simp] theorem State.unspecified_phase : s.unspecified.phase = phaseOfBits (Config.unspecifiedPhase s.freeCount) := rfl
@[simp] theorem State.unspecified_frame : s.unspecified.frame = Config.unspecifiedFrame s.freeCount := rfl
@[simp] theorem State.unspecified_chan : s.unspecified.chan = Config.unspecifiedChannel s.freeCount := rfl
@[simp] theorem State.unspecified_pins : s.unspecified.pins = s.pins := rfl
@[simp] theorem State.unspecified_delivered : s.unspecified.delivered = s.delivered := rfl
@[simp] theorem State.unspecified_config : s.unspecified.config = s.config := rfl
@[simp] theorem State.unspecified_wasReset : s.unspecified.wasReset = s.wasReset := rfl
@[simp] theorem State.unspecified_freeCount : s.unspecified.freeCount = s.freeCount + 1 := rfl

@[simp] theorem State.withFetchWord_arch (nbits w : Nat) : (s.withFetchWord nbits w).arch = s.arch := rfl
@[simp] theorem State.withFetchWord_phase (nbits w : Nat) : (s.withFetchWord nbits w).phase = .idle := rfl
@[simp] theorem State.withFetchWord_frame (nbits w : Nat) : (s.withFetchWord nbits w).frame = s.frame := rfl
@[simp] theorem State.withFetchWord_chan (nbits w : Nat) : (s.withFetchWord nbits w).chan = s.chan := rfl
@[simp] theorem State.withFetchWord_pins (nbits w : Nat) : (s.withFetchWord nbits w).pins = offerPins s.pins (tableOffer nbits w) := rfl
@[simp] theorem State.withFetchWord_delivered (nbits w : Nat) : (s.withFetchWord nbits w).delivered = s.delivered := rfl
@[simp] theorem State.withFetchWord_config (nbits w : Nat) : (s.withFetchWord nbits w).config = s.config := rfl
@[simp] theorem State.withFetchWord_wasReset (nbits w : Nat) : (s.withFetchWord nbits w).wasReset = true := rfl
@[simp] theorem State.withFetchWord_freeCount (nbits w : Nat) : (s.withFetchWord nbits w).freeCount = s.freeCount := rfl

end

section
variable (s : State) (F : Frame) (S : Arch) (evs : List Event)

@[simp] theorem State.finished_arch : (s.finished F S evs).arch = S := rfl
@[simp] theorem State.finished_phase : (s.finished F S evs).phase = .idle := rfl
@[simp] theorem State.finished_frame : (s.finished F S evs).frame = F := rfl
@[simp] theorem State.finished_chan :
    (s.finished F S evs).chan = if accepts F s.arch then .center else s.chan := rfl
@[simp] theorem State.finished_pins : (s.finished F S evs).pins = s.pins := rfl
@[simp] theorem State.finished_delivered : (s.finished F S evs).delivered = s.delivered ++ evs := rfl
@[simp] theorem State.finished_config : (s.finished F S evs).config = s.config := rfl
@[simp] theorem State.finished_wasReset : (s.finished F S evs).wasReset = s.wasReset := rfl
@[simp] theorem State.finished_freeCount : (s.finished F S evs).freeCount = s.freeCount := rfl

end

end Sys2Proof.Machine
end

