-- ==== Sys2Proof/Laws/Cycle.lean ====
section
/-! SUPPORT. What one edge can do, said once, and what is left of the frame in progress: the result
still to come (`pending`) and the edges it takes without stalls (`remaining`). -/

namespace Sys2Proof.Machine

/-- The channels the walk has still to visit, from `ch` on (R100, R145). -/
def channelsFrom (ch : Channel) : List Channel := channelOrder.drop (channelIndex ch).val

theorem channelsFrom_center : channelsFrom .center = channelOrder := rfl

theorem channelsFrom_eq (ch : Channel) :
    channelsFrom ch = ch :: (match nextChannel ch with
      | some c => channelsFrom c
      | none => []) := by
  cases ch <;> rfl

theorem nodup_channelsFrom (ch : Channel) : (channelsFrom ch).Nodup := by cases ch <;> decide

theorem channelIndex_next {a b : Channel} (h : nextChannel a = some b) :
    (channelIndex b).val = (channelIndex a).val + 1 := by
  revert h; cases a <;> cases b <;> decide

theorem channelIndex_last {a : Channel} (h : nextChannel a = none) : a = .map := by
  revert h; cases a <;> decide

/-- The post-state and the events still to come of the frame in progress (R122, R154). -/
def pending (s : State) : Option (Arch × List Event) :=
  match s.phase with
  | .idle => some (s.arch, [])
  | .guard => transaction s.config.params s.frame s.arch
  | .rot =>
    if s.arch.latchesLegal then some (acceptedStages s.config.params s.frame s.arch) else none
  | .ch =>
    if (channelsFrom s.chan).all fun ch => readField s.arch ch != 0b11#2 then
      some (channelLoop s.config.params s.frame (channelsFrom s.chan) s.arch)
    else none

/-- The edges to IDLE without stalls (R147). -/
def remaining (s : State) : Nat :=
  match s.phase with
  | .idle => 0
  | .guard => if accepts s.frame s.arch then 14 else 1
  | .rot => 13
  | .ch => 12 - (channelIndex s.chan).val

/-- The event that transfers at this edge (R141). -/
def taken (s : State) : List Event :=
  match presented s with
  | some (some e) => if sinkReady s.pins e then [e] else []
  | _ => []

theorem edge_reset {s : State} (h : s.pins.rst = true) : edge s = .next s.afterReset := if_pos h

theorem edge_idle {s : State} (hw : s.wasReset = true) (hr : s.pins.rst = false) (hp : s.phase = .idle) :
    edge s = .next (if s.pins.frameValid then s.capture s.pins.frameData else s) := by
  simp [edge, hr, hw, hp]

theorem edge_guard {s : State} (hw : s.wasReset = true) (hr : s.pins.rst = false)
    (hp : s.phase = .guard) : edge s = .next (guardEdge s) := by simp [edge, hr, hw, hp]

theorem edge_rot {s : State} (hw : s.wasReset = true) (hr : s.pins.rst = false) (hp : s.phase = .rot) :
    edge s = .next (rotEdge s) := by simp [edge, hr, hw, hp]

/-- The edge in CH: refused on a field of 11; else a hold, or the write of one field, the transfer of
its event and the move to the next channel or to IDLE (R145). -/
theorem edge_ch {s : State} (hw : s.wasReset = true) (hr : s.pins.rst = false) (hp : s.phase = .ch) :
    edge s =
      if readField s.arch s.chan = 0b11#2 then .refused .illegalLatch
      else
        let ev := expectedSwitch s.config.params s.frame s.arch s.chan
        let S := channelWrite s.config.params s.frame s.chan s.arch
        if transfers s.pins ev then
          match nextChannel s.chan with
          | some c => .next (s.advance S .ch c ev.toList)
          | none => .next (s.advance S .idle .center ev.toList)
        else .next s := by
  simp only [edge, hr, hw, hp, chEdge, channelEvent_eq]
  by_cases h : readField s.arch s.chan = 0b11#2
  · simp [h]
  · by_cases ht : transfers s.pins (expectedSwitch s.config.params s.frame s.arch s.chan) = true
    · cases hn : nextChannel s.chan <;> simp [h, ht]
    · simp [h, ht]

theorem presented_rot {s : State} (hr : s.pins.rst = false) (hp : s.phase = .rot) :
    presented s = some (rotaryEvent s.frame s.arch) := by simp [presented, hr, hp]

theorem presented_ch {s : State} (hr : s.pins.rst = false) (hp : s.phase = .ch) :
    presented s = if readField s.arch s.chan = 0b11#2 then none
      else some (expectedSwitch s.config.params s.frame s.arch s.chan) := by
  simp [presented, hr, hp, channelEvent_eq]

theorem taken_of_presented {s : State} {ev : Option Event} (h : presented s = some ev) :
    taken s = if transfers s.pins ev then ev.toList else [] := by
  unfold taken; rw [h]; cases ev <;> rfl

theorem stalled_of_presented {s : State} {ev : Option Event} (h : presented s = some ev) :
    s.stalled = !transfers s.pins ev := by simp [State.stalled, h]

/-- A stalled core holds: the edge changes nothing (R141, R172). -/
theorem edge_of_stalled {s : State} (hw : s.wasReset = true) (hr : s.pins.rst = false)
    (h : s.stalled = true) : edge s = .next s := by
  cases hp : s.phase with
  | idle => simp [State.stalled, presented, hr, hp, transfers] at h
  | guard => simp [State.stalled, presented, hr, hp, transfers] at h
  | rot =>
    rw [stalled_of_presented (presented_rot hr hp)] at h
    simp only [Bool.not_eq_true'] at h
    simp [edge_rot hw hr hp, rotEdge, h]
  | ch =>
    by_cases h3 : readField s.arch s.chan = 0b11#2
    · simp [State.stalled, presented_ch hr hp, h3] at h
    · rw [stalled_of_presented (by rw [presented_ch hr hp, if_neg h3])] at h
      simp only [Bool.not_eq_true'] at h
      simp [edge_ch hw hr hp, h3, h]

/-- What one edge of a frame in progress leaves alone, whether it stalls or not. -/
theorem edge_frame {s t : State} (hw : s.wasReset = true) (hr : s.pins.rst = false)
    (hp : s.phase ≠ .idle) (h : edge s = .next t) :
    t.frame = s.frame ∧ t.pins = s.pins ∧ t.config = s.config ∧ t.wasReset = s.wasReset
      ∧ t.freeCount = s.freeCount ∧ t.delivered = s.delivered ++ taken s := by
  cases hph : s.phase with
  | idle => exact absurd hph hp
  | guard =>
    rw [edge_guard hw hr hph] at h
    cases h
    simp [guardEdge, taken, presented, hr, hph]
  | rot =>
    rw [edge_rot hw hr hph] at h
    cases h
    rw [taken_of_presented (presented_rot hr hph)]
    by_cases ht : transfers s.pins (rotaryEvent s.frame s.arch) = true <;> simp [rotEdge, ht]
  | ch =>
    rw [edge_ch hw hr hph] at h
    by_cases h3 : readField s.arch s.chan = 0b11#2
    · simp [h3] at h
    · rw [taken_of_presented (by rw [presented_ch hr hph, if_neg h3])]
      simp only [if_neg h3] at h
      by_cases ht : transfers s.pins (expectedSwitch s.config.params s.frame s.arch s.chan) = true
      · simp only [ht, if_true] at h
        cases hn : nextChannel s.chan <;> simp only [hn] at h <;> cases h <;> simp [ht]
      · simp only [ht] at h
        cases h; simp [ht]

/-- An edge without a stall brings the frame one edge nearer to IDLE, and what it delivers is the head
of what was still to come (R143, R147, R154). -/
theorem edge_progress {s t : State} (hw : s.wasReset = true) (hr : s.pins.rst = false)
    (hp : s.phase ≠ .idle) (hs : s.stalled = false) (h : edge s = .next t) :
    remaining s = remaining t + 1
      ∧ pending s = (pending t).map fun r => (r.1, taken s ++ r.2) := by
  cases hph : s.phase with
  | idle => exact absurd hph hp
  | guard =>
    rw [edge_guard hw hr hph] at h
    cases h
    have ht : taken s = [] := by simp [taken, presented, hr, hph]
    cases ha : accepts s.frame s.arch
    · simp [remaining, pending, hph, guardEdge, ha, ht, transaction]
    · simp [remaining, pending, hph, guardEdge, ha, ht, transaction]
  | rot =>
    rw [edge_rot hw hr hph] at h
    rw [stalled_of_presented (presented_rot hr hph)] at hs
    simp only [Bool.not_eq_false'] at hs
    rw [taken_of_presented (presented_rot hr hph)]
    cases h
    have hl : s.arch.latchesLegal
        = channelOrder.all fun ch => readField (rotaryStage s.frame s.arch) ch != 0b11#2 := by
      simp only [Arch.latchesLegal, readField_rotaryStage]
    simp only [remaining, pending, hph, rotEdge, hs, if_true, State.advance_phase, State.advance_chan,
      State.advance_arch, State.advance_frame, State.advance_config, channelsFrom_center, hl]
    refine ⟨rfl, ?_⟩
    split <;> rfl
  | ch =>
    rw [edge_ch hw hr hph] at h
    by_cases h3 : readField s.arch s.chan = 0b11#2
    · simp [h3] at h
    · have hpr : presented s = some (expectedSwitch s.config.params s.frame s.arch s.chan) := by
        rw [presented_ch hr hph, if_neg h3]
      rw [stalled_of_presented hpr] at hs
      simp only [Bool.not_eq_false'] at hs
      rw [taken_of_presented hpr]
      simp only [if_neg h3, hs, if_true] at h
      cases hn : nextChannel s.chan with
      | some c =>
        simp only [hn] at h
        cases h
        have hi := channelIndex_next hn
        have hc := (channelIndex c).isLt
        refine ⟨by simp only [remaining, hph, State.advance_phase, State.advance_chan]; omega, ?_⟩
        have hnd := nodup_channelsFrom s.chan
        rw [channelsFrom_eq, hn] at hnd
        have hmem : ((channelsFrom s.chan).all fun ch => readField s.arch ch != 0b11#2)
            = (channelsFrom c).all fun ch =>
                readField (channelWrite s.config.params s.frame s.chan s.arch) ch != 0b11#2 := by
          rw [channelsFrom_eq, hn, List.all_cons, bne_iff_ne.2 h3, Bool.true_and, Bool.eq_iff_iff,
            List.all_eq_true, List.all_eq_true]
          refine forall₂_congr fun ch hch => ?_
          rw [readField_channelWrite_of_ne]
          exact fun e => (List.nodup_cons.1 hnd).1 (e ▸ hch)
        cases hg : (channelsFrom c).all fun ch =>
            readField (channelWrite s.config.params s.frame s.chan s.arch) ch != 0b11#2
        · rw [hg] at hmem
          simp only [pending, hph, hs, if_true, hmem, hg, State.advance_config, State.advance_frame,
            State.advance_arch, State.advance_phase, State.advance_chan, Bool.false_eq_true, if_false,
            Option.map_none]
        · rw [hg] at hmem
          simp only [pending, hph, hs, if_true, hmem, hg, State.advance_config, State.advance_frame,
            State.advance_arch, State.advance_phase, State.advance_chan]
          rw [channelsFrom_eq s.chan, hn]
          simp only [channelLoop, channelEvent_eq, Option.map_some]
      | none =>
        simp only [hn] at h
        cases h
        have hi := channelIndex_last hn
        refine ⟨by simp [remaining, hph, hi, channelIndex], ?_⟩
        simp only [pending, hph, hs, if_true]
        rw [channelsFrom_eq, hn]
        simp [channelLoop, channelEvent_eq, h3]

/-- A frame in progress is refused only where the frame's transaction is (R26, R104). -/
theorem pending_of_refused {s : State} {r : Refusal} (hw : s.wasReset = true) (hr : s.pins.rst = false)
    (h : edge s = .refused r) : r = .illegalLatch ∧ pending s = none := by
  cases hph : s.phase with
  | idle => simp [edge_idle hw hr hph] at h
  | guard => simp [edge_guard hw hr hph] at h
  | rot => simp [edge_rot hw hr hph] at h
  | ch =>
    rw [edge_ch hw hr hph] at h
    by_cases h3 : readField s.arch s.chan = 0b11#2
    · simp only [h3, if_true] at h
      cases h
      refine ⟨rfl, ?_⟩
      simp only [pending, hph]
      rw [channelsFrom_eq]
      simp [h3]
    · simp only [if_neg h3] at h
      split at h
      · split at h <;> cases h
      · cases h

theorem remaining_eq_zero {s : State} : remaining s = 0 ↔ s.phase = .idle := by
  unfold remaining
  cases hph : s.phase with
  | idle => simp
  | guard => by_cases ha : accepts s.frame s.arch = true <;> simp [ha]
  | rot => simp
  | ch =>
    have := (channelIndex s.chan).isLt
    simp; omega

theorem remaining_le (s : State) : remaining s ≤ 14 := by
  unfold remaining; split <;> (try split) <;> omega

/-- The pins matter to the rest of a frame only through its stalls. -/
@[simp] theorem pending_withPins (s : State) (p : Pins) : pending (s.withPins p) = pending s := rfl

@[simp] theorem remaining_withPins (s : State) (p : Pins) : remaining (s.withPins p) = remaining s := rfl

@[simp] theorem pending_capture (s : State) (F : Frame) :
    pending (s.capture F) = transaction s.config.params F s.arch := rfl

@[simp] theorem remaining_capture (s : State) (F : Frame) :
    remaining (s.capture F) = if accepts F s.arch then 14 else 1 := rfl

/-- `settle` with enough fuel: it answers a wait, and the rest of the frame is what it was, less what
was delivered on the way (R172). -/
theorem settle_spec : ∀ (n : Nat) (s t : State), s.wasReset = true → s.pins.rst = false →
    remaining s ≤ n → settle n s = .next t →
    (t.phase = .idle ∨ t.stalled = true)
      ∧ t.frame = s.frame ∧ t.pins = s.pins ∧ t.config = s.config ∧ t.wasReset = s.wasReset
      ∧ t.freeCount = s.freeCount
      ∧ ∃ evs, t.delivered = s.delivered ++ evs
          ∧ pending s = (pending t).map fun r => (r.1, evs ++ r.2) := by
  intro n
  induction n with
  | zero =>
    intro s t hw hr hm h
    cases h
    exact ⟨.inl (remaining_eq_zero.1 (Nat.le_zero.1 hm)), rfl, rfl, rfl, rfl, rfl, [], by simp, by simp⟩
  | succ n ih =>
    intro s t hw hr hm h
    simp only [settle] at h
    split at h
    · next hc =>
      cases h
      refine ⟨by simpa using hc, rfl, rfl, rfl, rfl, rfl, [], by simp, by simp⟩
    · next hc =>
      simp only [Bool.or_eq_true, decide_eq_true_eq, not_or, Bool.not_eq_true] at hc
      cases he : edge s with
      | fault r => cases r
      | refused r => simp [he] at h
      | next u =>
        simp only [he] at h
        obtain ⟨hf, hpi, hco, hwr, hfc, hd⟩ := edge_frame hw hr hc.1 he
        obtain ⟨hrem, hpen⟩ := edge_progress hw hr hc.1 hc.2 he
        obtain ⟨hwait, kf, kp, kc, kw, kfc, evs, kd, kpen⟩ :=
          ih u t (by rw [hwr, hw]) (by rw [hpi, hr]) (by omega) h
        refine ⟨hwait, kf.trans hf, kp.trans hpi, kc.trans hco, kw.trans hwr, kfc.trans hfc,
          taken s ++ evs, by rw [kd, hd, List.append_assoc], ?_⟩
        rw [hpen, kpen, Option.map_map]
        congr 1
        funext r
        simp

/-- `settle` is refused only where the frame's transaction is. -/
theorem settle_refused : ∀ (n : Nat) (s : State) (r : Refusal), s.wasReset = true →
    s.pins.rst = false → settle n s = .refused r → r = .illegalLatch ∧ pending s = none := by
  intro n
  induction n with
  | zero => intro s r _ _ h; cases h
  | succ n ih =>
    intro s r hw hr h
    simp only [settle] at h
    split at h
    · cases h
    · next hc =>
      simp only [Bool.or_eq_true, decide_eq_true_eq, not_or, Bool.not_eq_true] at hc
      cases he : edge s with
      | fault r => cases r
      | refused r' => simp only [he] at h; cases h; exact pending_of_refused hw hr he
      | next u =>
        simp only [he] at h
        obtain ⟨_, hpi, _, hwr, _, _⟩ := edge_frame hw hr hc.1 he
        obtain ⟨_, hpen⟩ := edge_progress hw hr hc.1 hc.2 he
        obtain ⟨h1, h2⟩ := ih u r (by rw [hwr, hw]) (by rw [hpi, hr]) h
        exact ⟨h1, by rw [hpen, h2]; rfl⟩

end Sys2Proof.Machine
end

