-- ==== Sys2Proof/Laws/Decode.lean ====
section
/-! SUPPORT. The bits and fields of an encoded frame, and the bytes of a frame word (R43, R55, R56). -/

namespace Sys2Proof

/-- Which field each bit of an encoded frame comes from (R55). -/
theorem getLsbD_encodeWord (c : Byte) (b : Body) (i : Nat) :
    (encodeWord c b).getLsbD i =
      if i < 8 then c.getLsbD i
      else if i < 24 then b.pos.getLsbD (i - 8)
      else if i < 28 then b.b3lo.getLsbD (i - 24)
      else if i < 32 then b.dirnib.getLsbD (i - 28)
      else if i < 40 then b.b4.getLsbD (i - 32)
      else if i < 48 then b.b5.getLsbD (i - 40)
      else if i < 56 then b.b6.getLsbD (i - 48)
      else b.b7.getLsbD (i - 56) := by
  have h : (encodeWord c b).getLsbD i
      = (b.b7 ++ b.b6 ++ b.b5 ++ b.b4 ++ b.dirnib ++ b.b3lo ++ b.pos ++ c).getLsbD i := rfl
  rw [h]
  simp only [BitVec.getLsbD_append, Nat.sub_sub]
  by_cases h8 : i < 8
  · simp [h8]
  · grind

theorem getLsbD_frameByte (F : Frame) (k : Fin 8) (i : Nat) :
    (frameByte F k).getLsbD i = (decide (i < 8) && F.getLsbD (8 * k.val + i)) := by
  simp [frameByte, BitVec.getLsbD_extractLsb']

theorem getLsbD_framePos (F : Frame) (i : Nat) :
    (framePos F).getLsbD i = (decide (i < 16) && F.getLsbD (8 + i)) := by
  have h : (framePos F).getLsbD i = (frameByte F 2 ++ frameByte F 1).getLsbD i := rfl
  rw [h, BitVec.getLsbD_append, getLsbD_frameByte, getLsbD_frameByte]
  grind

theorem frameCounter_encodeWord (c : Byte) (b : Body) : frameCounter (encodeWord c b) = c := by
  apply BitVec.eq_of_getLsbD_eq
  intro i hi
  rw [frameCounter, getLsbD_frameByte, getLsbD_encodeWord]
  simp [hi]

theorem framePos_encodeWord (c : Byte) (b : Body) : framePos (encodeWord c b) = b.pos := by
  apply BitVec.eq_of_getLsbD_eq
  intro i hi
  rw [getLsbD_framePos, getLsbD_encodeWord]
  grind

theorem frameByte_encodeWord (c : Byte) (b : Body) :
    frameByte (encodeWord c b) 3 = b.dirnib ++ b.b3lo ∧ frameByte (encodeWord c b) 4 = b.b4
      ∧ frameByte (encodeWord c b) 5 = b.b5 ∧ frameByte (encodeWord c b) 6 = b.b6
      ∧ frameByte (encodeWord c b) 7 = b.b7 := by
  have key : ∀ (k : Fin 8) (v : Byte),
      (∀ i, i < 8 → (encodeWord c b).getLsbD (8 * k.val + i) = v.getLsbD i) →
      frameByte (encodeWord c b) k = v := fun k v h => by
    apply BitVec.eq_of_getLsbD_eq
    intro i hi
    rw [getLsbD_frameByte, h i hi]
    simp [hi]
  have h3 : ∀ i, (b.dirnib ++ b.b3lo : BitVec 8).getLsbD i = (b.dirnib ++ b.b3lo).getLsbD i := fun _ => rfl
  refine ⟨key 3 _ fun i hi => ?_, key 4 _ fun i hi => ?_, key 5 _ fun i hi => ?_,
    key 6 _ fun i hi => ?_, key 7 _ fun i hi => ?_⟩ <;> rw [getLsbD_encodeWord]
  · rw [BitVec.getLsbD_append]; simp; grind
  all_goals simp; grind

theorem frameDirnib_encodeWord (c : Byte) (b : Body) : frameDirnib (encodeWord c b) = b.dirnib := by
  rw [frameDirnib, (frameByte_encodeWord c b).1]
  generalize b.dirnib = n
  generalize b.b3lo = l
  revert n l; decide

theorem frameB3lo_encodeWord (c : Byte) (b : Body) : frameB3lo (encodeWord c b) = b.b3lo := by
  rw [frameB3lo, (frameByte_encodeWord c b).1]
  generalize b.dirnib = n
  generalize b.b3lo = l
  revert n l; decide

/-- The fields of an encoded frame are the ones encoded (R56). -/
theorem frameBody_encodeWord (c : Byte) (b : Body) : frameBody (encodeWord c b) = b := by
  obtain ⟨_, h4, h5, h6, h7⟩ := frameByte_encodeWord c b
  simp [frameBody, h4, h5, h6, h7, framePos_encodeWord, frameDirnib_encodeWord, frameB3lo_encodeWord]

/-- A frame word is the encoding of its fields: no bit is left out (R55). -/
theorem encodeWord_frameBody (F : Frame) : encodeWord (frameCounter F) (frameBody F) = F := by
  apply BitVec.eq_of_getLsbD_eq
  intro i hi
  rw [getLsbD_encodeWord]
  have hd : ∀ j, (frameDirnib F).getLsbD j = (decide (j < 4) && F.getLsbD (28 + j)) := fun j => by
    simp [frameDirnib, BitVec.getLsbD_extractLsb', getLsbD_frameByte]; grind
  have hl : ∀ j, (frameB3lo F).getLsbD j = (decide (j < 4) && F.getLsbD (24 + j)) := fun j => by
    simp [frameB3lo, BitVec.getLsbD_extractLsb', getLsbD_frameByte]; grind
  simp only [frameBody, frameCounter, hd, hl, getLsbD_framePos, getLsbD_frameByte]
  simp
  grind

/-- The bytes of a frame word, joined again, are that word (R43). -/
theorem joinBytes_frameBytes (F : Frame) :
    joinBytes (frameByte F 0) (frameByte F 1) (frameByte F 2) (frameByte F 3) (frameByte F 4)
      (frameByte F 5) (frameByte F 6) (frameByte F 7) = F := by
  apply BitVec.eq_of_getLsbD_eq
  intro i hi
  have h : (joinBytes (frameByte F 0) (frameByte F 1) (frameByte F 2) (frameByte F 3) (frameByte F 4)
      (frameByte F 5) (frameByte F 6) (frameByte F 7)).getLsbD i
      = (frameByte F 7 ++ frameByte F 6 ++ frameByte F 5 ++ frameByte F 4 ++ frameByte F 3
        ++ frameByte F 2 ++ frameByte F 1 ++ frameByte F 0).getLsbD i := rfl
  rw [h]
  simp only [BitVec.getLsbD_append, getLsbD_frameByte]
  simp
  grind

/-- The 8 bytes of a frame word decode to what the word decodes to. -/
theorem decodeBytes_frameBytes (F : Frame) : decodeBytes (frameBytes F) = .ok (decodeWord F) := by
  simp [decodeBytes, frameBytes, joinBytes_frameBytes]

end Sys2Proof
end

