-- ==== Sys2Proof/Laws/Frame.lean ====
section
/-! SUPPORT. What a frame operation can do, said once (R120, R121, R140). -/

namespace Sys2Proof.Machine

theorem takesFrame_iff (s : State) :
    s.takesFrame = true ↔ s.wasReset = true ∧ s.phase = .idle ∧ s.pins.rst = false := by
  simp [State.takesFrame, State.frameReady]

/-- The two frame operations are one operation on the frame word. -/
theorem exec_decodeWord (F : Frame) (s : State) : exec (decodeWord F) s = frameOperation F s := by
  unfold decodeWord
  split
  · next h =>
    have := encodeWord_frameBody F
    rw [h] at this
    simp [exec, execDecodeResync, this]
  · simp [exec, execDecode, encodeWord_frameBody]

theorem sinksReady_of_open {s : State} (h : s.sinksOpen = true) (evs : List Event) :
    sinksReady s.pins evs = true := by
  simp only [State.sinksOpen, Bool.and_eq_true] at h
  simp [sinksReady, h.1, h.2]

/-- Before the first RESET a frame operation is refused (R182). -/
theorem frameOperation_before_reset (F : Frame) {s : State} (h : s.wasReset = false) :
    frameOperation F s = .refused .frameBeforeReset := by simp [frameOperation, h]

/-- A frame that is not taken leaves the state alone (R140). -/
theorem frameOperation_not_taken (F : Frame) {s : State} (hw : s.wasReset = true)
    (h : s.frameReady = false) : frameOperation F s = .next s := by simp [frameOperation, hw, h]

/-- A frame that is taken: refused by the transaction, finished, or held up by a sink. -/
theorem frameOperation_taken (F : Frame) {s : State} (h : s.takesFrame = true) :
    frameOperation F s = match transaction s.config.params F s.arch with
      | none => .refused .illegalLatch
      | some (S, evs) =>
        if sinksReady s.pins evs then .next (s.finished F S evs) else settle 14 (s.capture F) := by
  simp only [State.takesFrame, Bool.and_eq_true] at h
  rw [frameOperation, h.1, h.2]
  rfl

/-- With both sinks ready a frame that is taken is finished or refused. -/
theorem frameOperation_open (F : Frame) {s : State} (h : s.takesFrame = true)
    (ho : s.sinksOpen = true) :
    frameOperation F s = match transaction s.config.params F s.arch with
      | none => .refused .illegalLatch
      | some (S, evs) => .next (s.finished F S evs) := by
  rw [frameOperation_taken F h]
  cases transaction s.config.params F s.arch with
  | none => rfl
  | some r => simp [sinksReady_of_open ho]

/-- If a frame operation answers a next state, the frame was not taken, or the transaction has a
result, and the state is the finished one or a wait on the way to it. -/
theorem frameOperation_next {F : Frame} {s t : State} (h : frameOperation F s = .next t) :
    s.wasReset = true ∧ ((s.frameReady = false ∧ t = s)
      ∨ (s.takesFrame = true ∧ ∃ S evs, transaction s.config.params F s.arch = some (S, evs)
          ∧ ((sinksReady s.pins evs = true ∧ t = s.finished F S evs)
            ∨ (sinksReady s.pins evs = false ∧ settle 14 (s.capture F) = .next t)))) := by
  cases hw : s.wasReset with
  | false => simp [frameOperation_before_reset F hw] at h
  | true =>
    refine ⟨rfl, ?_⟩
    cases hf : s.frameReady with
    | false => rw [frameOperation_not_taken F hw hf] at h; cases h; exact .inl ⟨rfl, rfl⟩
    | true =>
      have ht : s.takesFrame = true := by simp [State.takesFrame, hw, hf]
      rw [frameOperation_taken F ht] at h
      refine .inr ⟨ht, ?_⟩
      cases hx : transaction s.config.params F s.arch with
      | none => simp [hx] at h
      | some r =>
        obtain ⟨S, evs⟩ := r
        simp only [hx] at h
        refine ⟨S, evs, rfl, ?_⟩
        cases hr : sinksReady s.pins evs with
        | true => simp only [hr, if_true] at h; cases h; exact .inl ⟨rfl, rfl⟩
        | false => simp only [hr] at h; exact .inr ⟨rfl, h⟩

/-- One step, by what the ports select (R67). -/
theorem step_reset {s : State} (h : s.pins.rst = true) : step s = .next s.afterReset := by
  simp [step, fetch, h, decodeOffer, exec, execReset]

theorem step_frame {s : State} (hr : s.pins.rst = false) (hp : s.phase = .idle)
    (hv : s.pins.frameValid = true) : step s = frameOperation s.pins.frameData s := by
  simp [step, fetch, hr, hv, State.frameReady, hp, exec_decodeWord, decodeBytes_frameBytes]

theorem step_continue {s : State} (hr : s.pins.rst = false)
    (h : s.phase ≠ .idle ∨ s.pins.frameValid = false) : step s = continueFrame s := by
  have : (s.frameReady && s.pins.frameValid) = false := by
    rcases h with h | h <;> simp [State.frameReady, hr, h]
  simp [step, fetch, hr, this]

end Sys2Proof.Machine
end

