-- ==== Sys2Proof/Laws/PerInstr.lean ====
section
/-! SUPPORT. A fact about every operation as syntax, one lemma per constructor: which row of the table
its encoding selects (R67). -/

namespace Sys2Proof.Laws.EncodedSelection

/-- What a well-formed operation writes at the ports selects its own row: rst for RESET, and for a
frame a counter byte that is 0 for DECODE.RESYNC and is not 0 for DECODE (R67, R120, R121). -/
def Statement (i : Instr) : Prop :=
  i.wellFormed = true →
    match i with
    | .decodeResync _ => (encode i).rst = false ∧ frameCounter (encode i).frame = 0#8
    | .decode c _ =>
      (encode i).rst = false ∧ frameCounter (encode i).frame = c ∧ frameCounter (encode i).frame ≠ 0#8
    | .reset => (encode i).rst = true

theorem decodeResync (b : Body) : Statement (.decodeResync b) :=
  fun _ => ⟨rfl, frameCounter_encodeWord 0#8 b⟩

theorem decode (c : Byte) (b : Body) : Statement (.decode c b) := fun h => by
  have hc : frameCounter (encode (.decode c b)).frame = c := frameCounter_encodeWord c b
  exact ⟨rfl, hc, by simpa [hc, Instr.wellFormed] using h⟩

theorem reset : Statement .reset := fun _ => rfl

end Sys2Proof.Laws.EncodedSelection
end

