-- ==== Sys2Proof/Tests/Slice0.lean ====
section
/-! SUPPORT. Tests. Every expected value is written out from spec/30_encoding.md or from a vector of
spec/95_test_vectors.md, under its example configuration EXCFG, and none from a run of the model. The
`witness_` theorems show states and operands that meet all hypotheses of the statement they name. -/

namespace Sys2Proof.Tests

open Sys2Proof Sys2Proof.Machine

/-! ## Helpers -/

/-- A quiescent state of an EXCFG core, in the notation of 95_test_vectors.md. -/
def st (c : Byte) (pos : Position) (l0 l1 l2 : Byte) : State :=
  { State.reset with
    config := {}
    arch := { lastCounter := c, lastPos := pos, l0 := l0, l1 := l1, l2 := l2 } }

/-- The same with a frame offered. -/
def State.offer (s : State) (F : Frame) : State :=
  s.withPins { s.pins with frameValid := true, frameData := F }

/-- The same with the given levels of the two readies. -/
def State.sinks (s : State) (rot sw : Bool) : State :=
  s.withPins { s.pins with rotReady := rot, swReady := sw }

/-- rst high. -/
def State.rstHigh (s : State) : State := s.withPins { s.pins with rst := true }

/-- What an observer sees of a next state: S0-S4 and the delivered events. -/
def seen : Host.Outcome State Fault Refusal → Option (Arch × List Event)
  | .next t => some (t.arch, t.delivered)
  | _ => none

/-- S0-S4 as a test writes them. -/
def arch (c : Byte) (pos : Position) (l0 l1 l2 : Byte) : Arch :=
  { lastCounter := c, lastPos := pos, l0 := l0, l1 := l1, l2 := l2 }

def isNext : Host.Outcome State Fault Refusal → Bool
  | .next _ => true
  | _ => false

theorem exists_next {o : Host.Outcome State Fault Refusal} (h : isNext o = true) :
    ∃ t, o = .next t := by
  cases o with
  | next t => exact ⟨t, rfl⟩
  | fault r => cases h
  | refused r => cases h

def zeroBody : Body := { pos := 0, dirnib := 0, b3lo := 0, b4 := 0, b5 := 0, b6 := 0, b7 := 0 }

/-! ## WellFormed: each check refuses an ill-formed term -/

/-- R67: a DECODE has a counter that is not 0. -/
theorem test_wellFormed_refuses_counter_zero : (Instr.decode 0x00#8 zeroBody).wellFormed = false := by
  decide

def refuses (p : Params) : Bool := (Configuration.ofParams p).isNone

theorem test_example_configuration_is_legal : refuses exampleParams = false := by decide

/-- R8 item 1: one bit per mask. -/
theorem test_refuses_two_bit_mask :
    refuses { exampleParams with menu := { primary := 0x03#8, extended := 0x04#8 } } = true := by decide

theorem test_refuses_empty_mask :
    refuses { exampleParams with map := { primary := 0x01#8, extended := 0x00#8 } } = true := by decide

/-- R8 item 2: the masks differ. -/
theorem test_refuses_equal_masks :
    refuses { exampleParams with com := { primary := 0x04#8, extended := 0x04#8 } } = true := by decide

/-- R8 item 3: center in the low nibble. -/
theorem test_refuses_center_in_high_nibble :
    refuses { exampleParams with center := { primary := 0x01#8, extended := 0x10#8 } } = true := by
  decide

/-- R8 item 4: the eight nibbles differ; 0xA is left's. -/
theorem test_refuses_repeated_nibble :
    refuses { exampleParams with up := { primary := 0xA#4, extended := 0x2#4 } } = true := by decide

/-- R8 item 5: no nibble is 0. -/
theorem test_refuses_zero_nibble :
    refuses { exampleParams with down := { primary := 0x0#4, extended := 0x8#4 } } = true := by decide

def codesWith (c : Codes) : Params := { exampleParams with eventCodes := defaultCodes.set 0 c }

/-- R8 item 6: 36 different codes in 1..36. -/
theorem test_refuses_repeated_code :
    refuses (codesWith { enteredPrimary := 1#6, enteredExtended := 2#6, released := 4#6 }) = true := by
  decide

theorem test_refuses_code_out_of_range :
    refuses (codesWith { enteredPrimary := 1#6, enteredExtended := 2#6, released := 37#6 }) = true := by
  decide

/-! ## Decoding words written out from the encoding (R55, R70, opcode_table.json) -/

/-- Row DECODE, hhhhhhhh gggggggg ffffffff eeeeeeee nnnn dddd p…p cccccccc, bit 63 first. -/
theorem test_decode_bits :
    decodeWord 0b1000000101000010001001000001100010100101110000000000001000000111#64
      = .decode 0b00000111#8
          { pos := 0b1100000000000010#16, dirnib := 0b1010#4, b3lo := 0b0101#4, b4 := 0b00011000#8,
            b5 := 0b00100100#8, b6 := 0b01000010#8, b7 := 0b10000001#8 } := by decide

/-- Row DECODE.RESYNC: the same with bits [7:0] = 0. -/
theorem test_decodeResync_bits :
    decodeWord 0b1000000101000010001001000001100010100101110000000000001000000000#64
      = .decodeResync
          { pos := 0b1100000000000010#16, dirnib := 0b1010#4, b3lo := 0b0101#4, b4 := 0b00011000#8,
            b5 := 0b00100100#8, b6 := 0b01000010#8, b7 := 0b10000001#8 } := by decide

/-- Row RESET has no frame bits; `frame_data` is ignored. -/
theorem test_reset_row : decodeTableWord 0 0 = some .reset
    ∧ decodeOffer { rst := true, frame := 0x00000000A0001001#64 } = .reset := by decide

/-- The example of R70, as bytes, as the word and as a table row's bits. -/
theorem test_decode_r70 :
    decodeBytes [0x01#8, 0x10#8, 0x00#8, 0xA0#8, 0x00#8, 0x00#8, 0x00#8, 0x00#8]
        = .ok (.decode 0x01#8 { zeroBody with pos := 0x0010#16, dirnib := 0xA#4 })
      ∧ decodeTableWord 64 0x00000000A0001001
        = some (.decode 0x01#8 { zeroBody with pos := 0x0010#16, dirnib := 0xA#4 })
      ∧ frameOf 0x01#8 0x0010#16 (b3 := 0xA0#8) = 0x00000000A0001001#64 := ⟨rfl, by decide, by decide⟩

/-- 95_test_vectors.md V-D-2, a DECODE.RESYNC, and the encoder on it. -/
theorem test_decodeResync_vd2 :
    decodeTableWord 64 0x00000000A0000500
        = some (.decodeResync { zeroBody with pos := 0x0005#16, dirnib := 0xA#4 })
      ∧ encode (.decodeResync { zeroBody with pos := 0x0005#16, dirnib := 0xA#4 })
        = { rst := false, frame := 0x00000000A0000500#64 } := by decide

/-- No row is wider than FRAME64 (R69). -/
theorem test_no_wider_row : decodeTableWord 72 1 = none := by decide

/-! ## Steps -/

/-- V-D-7: the reachable maximum of 11 events. -/
theorem test_decode_eleven_events :
    seen (step (State.offer (st 0x01 0x0000 0x08 0x00 0x00) 0x0105050541000502#64))
      = some (arch 0x02 0x0005 0x82 0xA8 0xAA,
          [.rotary 5, .switch .center .enteredPrimary 1, .switch .left .released 6,
           .switch .right .enteredPrimary 10, .switch .menu .enteredPrimary 16,
           .switch .back .enteredPrimary 19, .switch .com .enteredPrimary 22,
           .switch .option .enteredPrimary 25, .switch .media .enteredPrimary 28,
           .switch .nav .enteredPrimary 31, .switch .map .enteredPrimary 34]) := by decide

/-- V-L1-3: stale, nothing written, nothing delivered. -/
theorem test_decode_stale :
    seen (step (State.offer (st 0x0A 0x7FFF 0x00 0x00 0x00) 0x00000000A01234FA#64))
      = some (arch 0x0A 0x7FFF 0x00 0x00 0x00, []) := by decide

/-- V-L1-8: a counter-0 frame reports again what was already engaged; the delta is -32767. -/
theorem test_decodeResync_reports_again :
    seen (step (State.offer (st 0x30 0x0000 0x08 0x00 0x00) 0x00000000A0000000#64))
        = some (arch 0x00 0x0000 0x08 0x00 0x00,
            [.rotary 0x8001, .switch .left .enteredPrimary 4])
      ∧ (0x8001#16).toInt = -32767 := by decide

/-- V-D-3: the release of left is lost, and the sentinel position gives no delta. -/
theorem test_decodeResync_loses_release :
    seen (step (State.offer (st 0x05 0x7FFF 0x08 0x00 0x00) 0x00000000007FFF00#64))
      = some (arch 0x00 0x7FFF 0x00 0x00 0x00, []) := by decide

/-- §2.7: RESET, here from CH with a frame offered and an event presented. -/
theorem test_reset_from_mid_frame :
    seen (step (State.rstHigh { State.offer (st 0x42 0x1234 0x00 0x04 0x00) 0x01#64 with
        phase := .ch, chan := .menu }))
      = some (arch 0xFF 0x7FFF 0x00 0x00 0x00, []) := by decide

/-- P5, first operation, on the reset state itself, whatever the configuration is: stale. -/
theorem test_first_step_from_reset :
    seen (step (State.reset.withFetchWord 64 0x00000000A07FFFC8))
      = some (arch 0xFF 0x7FFF 0x00 0x00 0x00, []) := by decide

/-- §2.8: rot_ready is 0, so the core waits in ROT with the counter written; then both sinks are
ready, and the frame goes on to its end state. -/
theorem test_hold_and_finish :
    seen (step (State.sinks (State.offer (st 0x00 0x0100 0x00 0x00 0x00) 0x0000000100010201#64) false true))
        = some (arch 0x01 0x0100 0x00 0x00 0x00, [])
      ∧ seen (step { st 0x01 0x0100 0x00 0x00 0x00 with
            frame := 0x0000000100010201#64, phase := .rot })
        = some (arch 0x01 0x0102 0x00 0x08 0x00, [.rotary 2, .switch .menu .enteredPrimary 16]) := by
  decide

/-! ## Witnesses -/

/-- left latched Primary, the frame V-D-7 below engages eight other channels and a new position. -/
def base : State := st 0x01 0x0000 0x08 0x00 0x00

def busyFrame : Frame := 0x0105050541000502#64

def busyBody : Body := frameBody busyFrame

/-- The same frame captured, the walk just begun, and the switch sink not ready: center's event is
presented. -/
def held : State :=
  State.sinks { base with frame := busyFrame, phase := .ch, arch := arch 0x02 0x0005 0x08 0x00 0x00 } true false

/-- Both cases of the hypothesis. -/
theorem witness_StepRunsTheSelectedOperation :
    (Instr.reset.wellFormed = true ∧ (State.rstHigh base).pins.rst = true)
      ∧ (Instr.decode 0x02#8 busyBody).wellFormed = true
      ∧ (State.offer base busyFrame).pins.rst = false ∧ (State.offer base busyFrame).phase = .idle
      ∧ (State.offer base busyFrame).pins.frameValid = true
      ∧ decodeBytes (frameBytes (State.offer base busyFrame).pins.frameData)
          = .ok (.decode 0x02#8 busyBody) := ⟨by decide, by decide, by decide, by decide, by decide, rfl⟩

theorem witness_EncodedOperationsDecodeBack :
    (Instr.decodeResync busyBody).wellFormed = true ∧ (Instr.decode 0x01#8 busyBody).wellFormed = true
      ∧ (Instr.decode 0xFF#8 busyBody).wellFormed = true ∧ Instr.reset.wellFormed = true := by decide

theorem witness_OnlyEightBytesAreAFrame :
    ([] : List Byte).length < 8 ∧ (List.replicate 7 0x00#8).length < 8
      ∧ 8 < (List.replicate 9 0x00#8).length ∧ (List.replicate 8 0x00#8).length = 8 := by decide

theorem witness_ResetHasPriorityAtEveryEdge : (State.rstHigh held).pins.rst = true := by decide

def offeredPins : Pins := { Pins.quiet with frameValid := true }

theorem witness_PowerOnNeedsAReset :
    (offeredPins.rst = false ∧ offeredPins.frameValid = true)
      ∧ ({ offeredPins with rst := true } : Pins).rst = true := by decide

theorem witness_FrameOperationsNeedAReset : (State.powerOn {} offeredPins).wasReset = false := by rfl

theorem witness_LaunchRefusesIllegalParametersAndLatches :
    ({ exampleParams with down := { primary := 0x0#4, extended := 0x8#4 } } : Params).legal = false
      ∧ exampleParams.legal = true ∧ (arch 0x01 0x0000 0xC0 0x00 0x00).latchesLegal = false
      ∧ (arch 0x01 0x0000 0xAA 0x55 0x00).latchesLegal = true := by decide

/-- diff = 127 and diff = 0. -/
theorem witness_AcceptedDecodeResult :
    base.takesFrame = true ∧ base.sinksOpen = true ∧ base.arch.latchesLegal = true
      ∧ (0x80#8 ≠ 0#8 ∧ (0x80#8 - base.arch.lastCounter).toNat = 127)
      ∧ (0x01#8 ≠ 0#8 ∧ (0x01#8 - base.arch.lastCounter).toNat = 0) := by decide

/-- diff = 128 and, against lastCounter = 2, diff = 255. -/
theorem witness_StaleDecodeChangesNothing :
    base.takesFrame = true ∧ (0x81#8 ≠ 0#8 ∧ (0x81#8 - base.arch.lastCounter).toNat = 128)
      ∧ (st 0x02 0 0 0 0).takesFrame = true
      ∧ (0x01#8 ≠ 0#8 ∧ (0x01#8 - (st 0x02 0 0 0 0).arch.lastCounter).toNat = 255) := by decide

/-- A state of the transaction's domain, and one with a field of 11. -/
theorem witness_DecodeResyncResult :
    base.takesFrame = true ∧ base.sinksOpen = true
      ∧ (st 0x01 0 0x03 0 0).takesFrame = true ∧ (st 0x01 0 0x03 0 0).sinksOpen = true
      ∧ readField (st 0x01 0 0x03 0 0).arch .center = 0b11#2 := by decide

/-- A field of 11 with an accepted counter, and with a stale one. -/
theorem witness_IllegalLatchIsRefusedWhereRead :
    0x80#8 ≠ 0#8 ∧ 0x81#8 ≠ 0#8 ∧ (st 0x01 0 0 0 0xC0).takesFrame = true
      ∧ readField (st 0x01 0 0 0 0xC0).arch .map = 0b11#2
      ∧ (0x80#8 - (st 0x01 0 0 0 0xC0).arch.lastCounter).toNat = 127
      ∧ (0x81#8 - (st 0x01 0 0 0 0xC0).arch.lastCounter).toNat = 128 := by decide

theorem witness_BusyCoreTakesNoFrame :
    (held.wasReset = true ∧ held.phase ≠ .idle)
      ∧ (State.rstHigh base).wasReset = true ∧ (State.rstHigh base).pins.rst = true := by decide

/-- §2.1: 1 and 128 behind are stale; 129 behind, which is 127 ahead, is accepted. -/
theorem witness_StaleMeansOneToOneTwentyEightBehind :
    accepts (frameOf 0x04#8 0) (arch 0x05 0 0 0 0) = false
      ∧ accepts (frameOf 0x85#8 0) (arch 0x05 0 0 0 0) = false
      ∧ accepts (frameOf 0x84#8 0) (arch 0x05 0 0 0 0) = true := by decide

theorem witness_ResyncStepWritesTheInitialValues :
    frameCounter (frameOf 0x00#8 0) = 0#8 ∧ frameCounter (frameOf 0xFF#8 0) ≠ 0#8 := by decide

/-- §2.1: accepted, stale, and a resync. -/
theorem witness_GuardWritesTheCounterOfAcceptedFramesOnly :
    accepts (frameOf 0x84#8 0) (arch 0x05 0 0 0 0) = true
      ∧ accepts (frameOf 0x85#8 0) (arch 0x05 0 0 0 0) = false
      ∧ accepts (frameOf 0x00#8 0) (arch 0x80 0 0 0 0) = true := by decide

/-- P2, its frames 1 to 4: the third is stale. -/
theorem witness_StaleFramesCanBeLeftOut :
    (st 0x04 0x0200 0 0 0).takesFrame = true ∧ (st 0x04 0x0200 0 0 0).sinksOpen = true
      ∧ (∃ u, runFrames [0x0000010000020005#64, 0x0000010000020106#64] (st 0x04 0x0200 0 0 0) = .next u
          ∧ accepts 0x0000000000030004#64 u.arch = false)
      ∧ ∃ t, runFrames ([0x0000010000020005#64, 0x0000010000020106#64]
          ++ 0x0000000000030004#64 :: [0x0000010000020106#64]) (st 0x04 0x0200 0 0 0) = .next t := by
  have h : (match runFrames [0x0000010000020005#64, 0x0000010000020106#64] (st 0x04 0x0200 0 0 0) with
      | .next u => !accepts 0x0000000000030004#64 u.arch
      | _ => false) = true := by decide
  refine ⟨by decide, by decide, ?_, exists_next (by decide)⟩
  cases he : runFrames [0x0000010000020005#64, 0x0000010000020106#64] (st 0x04 0x0200 0 0 0) with
  | next u => rw [he] at h; exact ⟨u, rfl, by simpa using h⟩
  | fault r => cases r
  | refused r => rw [he] at h; cases h

theorem witness_WholeCounterCycleIsAccepted :
    (List.replicate 258 busyBody).length = 258 ∧ base.takesFrame = true ∧ base.sinksOpen = true :=
  ⟨List.length_replicate, by decide, by decide⟩

/-- The half turn and the largest delta of §2.2. -/
theorem witness_ChangedPositionGivesOneDelta :
    framePos (frameOf 0x02#8 0x8000#16) ≠ (arch 0x01 0x0000 0 0 0).lastPos
      ∧ framePos (frameOf 0x02#8 0x7FFF#16) ≠ (arch 0x01 0x0000 0 0 0).lastPos := by decide

/-- 0x7FFF is an ordinary position (C3). -/
theorem witness_UnchangedPositionGivesNothing :
    framePos (frameOf 0x02#8 0x7FFF#16) = (arch 0xFF 0x7FFF 0 0 0).lastPos := by decide

/-- V-L1-5, and a stale frame. -/
theorem witness_FrameHasAtMostOneRotaryEvent :
    (∃ r, transaction exampleParams 0x0000000000001002#64 (arch 0x01 0xFFF0 0 0 0) = some r)
      ∧ (accepts 0x00000000A01234FA#64 (arch 0x0A 0x7FFF 0 0 0) = false
        ∧ ∃ r, transaction exampleParams 0x00000000A01234FA#64 (arch 0x0A 0x7FFF 0 0 0) = some r) :=
  ⟨Option.isSome_iff_exists.1 (by decide), by decide, Option.isSome_iff_exists.1 (by decide)⟩

/-- P2: accepted frames with a stale one between them. -/
theorem witness_DeltasSumToThePositionDifference :
    (∀ F ∈ [0x0000010000020005#64, 0x0000000000030004#64, 0x0000010000020106#64], frameCounter F ≠ 0#8)
      ∧ (st 0x04 0x0200 0 0 0).takesFrame = true ∧ (st 0x04 0x0200 0 0 0).sinksOpen = true
      ∧ ∃ t, runFrames [0x0000010000020005#64, 0x0000000000030004#64, 0x0000010000020106#64]
          (st 0x04 0x0200 0 0 0) = .next t := by
  refine ⟨?_, by decide, by decide, exists_next (by decide)⟩
  intro F hF
  simp only [List.mem_cons, List.not_mem_nil, or_false] at hF
  rcases hF with rfl | rfl | rfl <;> decide

/-- Two bytes 3 that differ in bits [7:4] only. -/
theorem witness_IndependentBitClassification :
    frameB3lo (frameOf 0x01#8 0 (b3 := 0xA1#8)) = frameB3lo (frameOf 0x01#8 0 (b3 := 0x41#8)) := by decide

theorem witness_SharedNibbleClassification :
    frameDirnib (frameOf 0x01#8 0 (b3 := 0xA0#8)) = 0xA#4
      ∧ frameDirnib (frameOf 0x01#8 0 (b3 := 0xBF#8)) = 0xB#4
      ∧ frameDirnib (frameOf 0x01#8 0 (b3 := 0x00#8)) ∉ exampleParams.nibbleTable := by decide

theorem witness_TransitionTableRows :
    transition 0b10#2 .extended = some (.extended, none) := by decide

theorem witness_EdgeWriteTouchesOneField :
    transition (readField base.arch .left) (classify exampleParams busyFrame .left)
        = some (.released, some .released)
      ∧ Channel.up ≠ .left := by decide

theorem witness_UnlistedNibbleEngagesNoDirection :
    frameDirnib (frameOf 0x01#8 0 (b3 := 0xF0#8)) ∉ ({} : Configuration).params.nibbleTable := by decide

theorem witness_AtMostOneDirectionPerFrame :
    Channel.right ∈ directions
      ∧ classify ({} : Configuration).params busyFrame .right ≠ .released := by decide

/-- diff = 127, and the frame delivers events and leaves other channels silent. -/
theorem witness_EventExactlyWhenEngagementChanges :
    0x80#8 ≠ 0#8 ∧ base.takesFrame = true ∧ base.sinksOpen = true
      ∧ (0x80#8 - base.arch.lastCounter).toNat ≤ 127
      ∧ ∃ t, exec (.decode 0x80#8 busyBody) base = .next t :=
  ⟨by decide, by decide, by decide, by decide, exists_next (by decide)⟩

theorem witness_EventsComeInTotalOrder :
    base.takesFrame = true ∧ base.sinksOpen = true ∧ ∃ t, exec (decodeWord busyFrame) base = .next t :=
  ⟨by decide, by decide, exists_next (by decide)⟩

theorem witness_ReachableFrameDeliversAtMostElevenEvents :
    base.inv = true ∧ base.takesFrame = true ∧ base.sinksOpen = true
      ∧ ∃ t, exec (decodeWord busyFrame) base = .next t :=
  ⟨by decide, by decide, by decide, exists_next (by decide)⟩

/-- Two different states before the frame. -/
theorem witness_LatchBytesDependOnTheLastAcceptedFrameOnly :
    base.config = (st 0x00 0x0005 0xAA 0x55 0x00).config ∧ base.takesFrame = true
      ∧ (st 0x00 0x0005 0xAA 0x55 0x00).takesFrame = true ∧ base.sinksOpen = true
      ∧ (st 0x00 0x0005 0xAA 0x55 0x00).sinksOpen = true ∧ accepts busyFrame base.arch = true
      ∧ accepts busyFrame (st 0x00 0x0005 0xAA 0x55 0x00).arch = true
      ∧ (∃ t, exec (decodeWord busyFrame) base = .next t)
      ∧ ∃ t, exec (decodeWord busyFrame) (st 0x00 0x0005 0xAA 0x55 0x00) = .next t :=
  ⟨rfl, by decide, by decide, by decide, by decide, by decide, by decide, exists_next (by decide),
    exists_next (by decide)⟩

theorem witness_RepeatedFrameIsIdempotent :
    0x02#8 ≠ 0#8 ∧ base.takesFrame = true ∧ base.sinksOpen = true
      ∧ (0x02#8 - base.arch.lastCounter).toNat ≤ 127
      ∧ ∃ t, exec (.decode 0x02#8 busyBody) base = .next t :=
  ⟨by decide, by decide, by decide, by decide, exists_next (by decide)⟩

theorem witness_RepeatedResyncReportsAgain :
    base.takesFrame = true ∧ base.sinksOpen = true
      ∧ ∃ t, exec (.decodeResync busyBody) base = .next t :=
  ⟨by decide, by decide, exists_next (by decide)⟩

/-- R65's default table: 1 is center's Entered-Primary and 36 is map's Released. -/
theorem witness_EventCodesAreABijection :
    (eventCode exampleParams .center .enteredPrimary).toNat = 1
      ∧ (eventCode exampleParams .map .released).toNat = 36 := by decide

/-- A DECODE, and a DECODE.RESYNC. -/
theorem witness_UnreadyRotarySinkHoldsTheFrame :
    (State.sinks base false true).takesFrame = true ∧ (State.sinks base false true).pins.rotReady = false
      ∧ (accepts busyFrame base.arch = true ∧ (resyncStage busyFrame base.arch).latchesLegal = true
          ∧ framePos busyFrame ≠ (resyncStage busyFrame base.arch).lastPos)
      ∧ (accepts 0x00#64 base.arch = true ∧ (resyncStage 0x00#64 base.arch).latchesLegal = true
          ∧ framePos 0x00#64 ≠ (resyncStage 0x00#64 base.arch).lastPos) := by decide

/-- With a rotary event taken first, and with none and both sinks closed. -/
theorem witness_UnreadySwitchSinkHoldsAtTheFirstEvent :
    (State.sinks base false false).takesFrame = true ∧ (State.sinks base true false).takesFrame = true
      ∧ (State.sinks base true false).pins.rotReady = true
      ∧ (State.sinks base true false).pins.swReady = false
      ∧ (State.sinks base false false).pins.swReady = false
      ∧ accepts busyFrame base.arch = true ∧ (resyncStage busyFrame base.arch).latchesLegal = true
      ∧ expectedSwitches base.config.params busyFrame (resyncStage busyFrame base.arch) ≠ []
      ∧ accepts 0x01#64 base.arch = true ∧ (resyncStage 0x01#64 base.arch).latchesLegal = true
      ∧ framePos 0x01#64 = (resyncStage 0x01#64 base.arch).lastPos
      ∧ expectedSwitches base.config.params 0x01#64 (resyncStage 0x01#64 base.arch) ≠ [] := by decide

/-- Only a switch event, and the rotary sink is not ready. -/
theorem witness_OperationCompletesWhereItsEventsAreTaken :
    (State.sinks base false true).takesFrame = true
      ∧ transaction (State.sinks base false true).config.params 0x02#64 (State.sinks base false true).arch
          = some (arch 0x02 0x0000 0x00 0x00 0x00, [.switch .left .released 6])
      ∧ ∀ e ∈ [Event.switch .left .released 6], sinkReady (State.sinks base false true).pins e = true := by
  decide

theorem witness_EveryStepEndsInAWait :
    (State.sinks (State.offer base busyFrame) true false).wasReset = true
      ∧ ∃ t, step (State.sinks (State.offer base busyFrame) true false) = .next t :=
  ⟨by decide, exists_next (by decide)⟩

theorem witness_NeverReadySinkHangsTheCore :
    held.wasReset = true ∧ held.pins.rst = false
      ∧ presented held = some (some (.switch .center .enteredPrimary 1))
      ∧ (∀ p ∈ [held.pins, held.pins],
          p.rst = false ∧ sinkReady p (.switch .center .enteredPrimary 1) = false)
      ∧ ∃ t, runEdges [held.pins, held.pins] held = .next t :=
  ⟨by decide, by decide, by decide, by decide, exists_next (by decide)⟩

theorem witness_HeldFrameIsFinishedLater :
    (State.sinks base true false).takesFrame = true
      ∧ (∃ t, exec (decodeWord busyFrame) (State.sinks base true false) = .next t ∧ t.phase ≠ .idle)
      ∧ base.pins.rst = false ∧ base.pins.rotReady = true ∧ base.pins.swReady = true := by
  have h : (match exec (decodeWord busyFrame) (State.sinks base true false) with
      | .next t => decide (t.phase ≠ .idle)
      | _ => false) = true := by decide
  refine ⟨by decide, ?_, by decide, by decide, by decide⟩
  cases he : exec (decodeWord busyFrame) (State.sinks base true false) with
  | next t => rw [he] at h; exact ⟨t, rfl, of_decide_eq_true h⟩
  | fault r => cases r
  | refused r => rw [he] at h; cases h

/-- The run of §2.8: two stalls, 16 edges. -/
def slowRun : List Pins :=
  [Pins.quiet, { Pins.quiet with rotReady := false }, { Pins.quiet with rotReady := false }]
    ++ List.replicate 13 Pins.quiet

theorem witness_RealisationRefinesTheTransaction :
    (st 0x00 0x0100 0 0 0).takesFrame = true ∧ (∀ p ∈ slowRun, p.rst = false)
      ∧ ∃ t, runToIdle slowRun ((st 0x00 0x0100 0 0 0).capture 0x0000000100010201#64) = some t :=
  ⟨by decide, by decide, Option.isSome_iff_exists.1 (by decide)⟩

/-- The same run, and the one edge of a stale frame. -/
theorem witness_FrameTakesFourteenEdgesPlusStalls :
    (∀ p ∈ slowRun, p.rst = false) ∧ (st 0x00 0x0100 0 0 0).takesFrame = true
      ∧ (∃ t, runToIdle slowRun ((st 0x00 0x0100 0 0 0).capture 0x0000000100010201#64) = some t)
      ∧ ∃ t, runToIdle [Pins.quiet] ((st 0x00 0x0100 0 0 0).capture 0x80#64) = some t :=
  ⟨by decide, by decide, Option.isSome_iff_exists.1 (by decide), Option.isSome_iff_exists.1 (by decide)⟩

theorem witness_ReadySinksCompleteTheFrameInTime :
    base.takesFrame = true ∧ base.sinksOpen = true ∧ base.arch.latchesLegal = true := by decide

theorem witness_HandshakeCapturesTheFrame :
    base.wasReset = true ∧ base.pins.rst = false ∧ base.phase = .idle ∧ base.pins.frameValid = false
      ∧ (State.offer base busyFrame).wasReset = true ∧ (State.offer base busyFrame).pins.rst = false
      ∧ (State.offer base busyFrame).phase = .idle
      ∧ (State.offer base busyFrame).pins.frameValid = true := by decide

theorem witness_FramePortIsIgnoredInMidFrame :
    held.wasReset = true ∧ held.phase ≠ .idle ∧ Pins.quiet.rst = offeredPins.rst
      ∧ Pins.quiet.rotReady = offeredPins.rotReady ∧ Pins.quiet.swReady = offeredPins.swReady
      ∧ ∃ t, edge (held.withPins Pins.quiet) = .next t :=
  ⟨by decide, by decide, by decide, by decide, by decide, exists_next (by decide)⟩

theorem witness_PresentedEventStaysUntilTaken :
    held.wasReset = true ∧ held.pins.rst = false
      ∧ presented held = some (some (.switch .center .enteredPrimary 1))
      ∧ sinkReady held.pins (.switch .center .enteredPrimary 1) = false
      ∧ offeredPins.rst = false := by decide

theorem witness_EdgeDeliversExactlyTheTakenEvent :
    held.wasReset = true ∧ (∃ t, edge held = .next t) ∧ ∃ t, edge (State.rstHigh held) = .next t :=
  ⟨by decide, exists_next (by decide), exists_next (by decide)⟩

/-- The outputs of edge e10 of §2.8. -/
theorem witness_OutputsCarryThePresentedEvent :
    outputs { st 0x01 0x0102 0 0 0 with frame := 0x0000000100010201#64, phase := .ch, chan := .menu }
      = some { frameReady := false, rotValid := false, rotDelta := none, swValid := true,
               swChannel := some 5, swKind := some 0, swCode := some 16 } := by decide

theorem witness_StepKeepsTheInvariant :
    (State.offer base busyFrame).inv = true ∧ held.inv = true
      ∧ (∃ t, step (State.offer base busyFrame) = .next t) ∧ ∃ t, step held = .next t :=
  ⟨by decide, by decide, exists_next (by decide), exists_next (by decide)⟩

theorem witness_EdgeKeepsTheInvariant :
    held.inv = true ∧ ∃ t, edge (held.withPins Pins.quiet) = .next t :=
  ⟨by decide, exists_next (by decide)⟩

theorem witness_StepKeepsInputsAndDeliveries :
    ∃ t, step (State.offer base busyFrame) = .next t := exists_next (by decide)

end Sys2Proof.Tests
end

section
/-! PROOFS. The directional nibble (R60, R61, R102): the shape of the four directions' rows, the members
of the table, and what a nibble outside the table classifies. -/

namespace Sys2Proof.Machine

/-- Each direction is classified by one of the table's four pairs, on the nibble all four share (R56, R58). -/
theorem exists_classify_eq_classifyNib (p : Params) {d : Channel} (hd : d ∈ directions) :
    ∃ n ∈ [leftNibbles, p.up, p.right, p.down],
      ∀ F : Frame, classify p F d = classifyNib n (frameDirnib F) := by
  simp only [directions, List.mem_cons, List.not_mem_nil, or_false] at hd
  rcases hd with rfl | rfl | rfl | rfl
  · exact ⟨leftNibbles, by simp, fun _ => rfl⟩
  · exact ⟨p.up, by simp, fun _ => rfl⟩
  · exact ⟨p.right, by simp, fun _ => rfl⟩
  · exact ⟨p.down, by simp, fun _ => rfl⟩

theorem classifyNib_eq_released_iff (n : Nibbles) (v : Nibble) :
    classifyNib n v = .released ↔ v ≠ n.primary ∧ v ≠ n.extended := by
  unfold classifyNib
  split
  · next hp => simp [hp]
  · next hp =>
    split
    · next he => simp [he]
    · next he => simp [hp, he]

theorem mem_nibbleTable_iff (p : Params) (v : Nibble) :
    v ∈ p.nibbleTable ↔
      ∃ n ∈ [leftNibbles, p.up, p.right, p.down], v = n.primary ∨ v = n.extended := by
  simp only [Params.nibbleTable, List.mem_flatMap, List.mem_pair]

theorem classify_eq_released_of_notMem_nibbleTable {p : Params} {F : Frame}
    (hF : frameDirnib F ∉ p.nibbleTable) {d : Channel} (hd : d ∈ directions) :
    classify p F d = .released := by
  obtain ⟨n, hn, hclass⟩ := exists_classify_eq_classifyNib p hd
  rw [hclass, classifyNib_eq_released_iff]
  exact ⟨fun hp => hF ((mem_nibbleTable_iff p _).2 ⟨n, hn, .inl hp⟩),
    fun he => hF ((mem_nibbleTable_iff p _).2 ⟨n, hn, .inr he⟩)⟩

/-- R8 items 4 and 5 as propositions. -/
theorem nibblesLegal_iff (p : Params) :
    p.nibblesLegal = true ↔ p.nibbleTable.Nodup ∧ 0x0#4 ∉ p.nibbleTable := by
  simp only [Params.nibblesLegal, Bool.and_eq_true, decide_eq_true_eq, List.all_eq_true, bne_iff_ne]
  exact and_congr_right fun _ => ⟨fun h h0 => h _ h0 rfl, fun h v hv h0 => h (h0 ▸ hv)⟩

theorem nibblesLegal_of_configuration (c : Configuration) : c.params.nibblesLegal = true := by
  have h := c.legal
  simp only [Params.legal, Bool.and_eq_true] at h
  obtain ⟨⟨_hmasks, hnibbles⟩, _hcodes⟩ := h
  exact hnibbles

/-- Settles O30: a direction's pair lies in the table, so a nibble outside the table matches neither of its
values; and R8 item 5 keeps 0x0 out of the table. -/
theorem unlistedNibbleEngagesNoDirection : Obligations.UnlistedNibbleEngagesNoDirection := by
  intro c F
  obtain ⟨_hnodup, hzero⟩ := (nibblesLegal_iff c.params).1 (nibblesLegal_of_configuration c)
  exact ⟨fun hF _ hd => classify_eq_released_of_notMem_nibbleTable hF hd, hzero⟩

end Sys2Proof.Machine
end

section
/-! PROOFS. The acceptance test of the sequence guard (R83): the verdict as a bound on diff, and the
stale half of the counter circle as a distance behind lastCounter (C2). -/

namespace Sys2Proof.Machine

theorem isStale_iff (diff : Byte) : isStale diff = true ↔ 127 < diff.toNat := decide_eq_true_iff

/-- R83: a frame is stale when diff, taken from the lastCounter after the resync, exceeds 127. -/
theorem accepts_eq_false_iff (F : Frame) (S : Arch) :
    accepts F S = false ↔ 127 < (frameCounter F - (resyncStage F S).lastCounter).toNat := by
  rw [accepts, Bool.not_eq_false', isStale_iff, counterDiff]

theorem accepts_eq_true_iff (F : Frame) (S : Arch) :
    accepts F S = true ↔ (frameCounter F - (resyncStage F S).lastCounter).toNat ≤ 127 := by
  rw [← Bool.not_eq_false, accepts_eq_false_iff, Nat.not_lt]

/-- Going k steps back from a byte and going 256 - k steps ahead are the same step on the circle. -/
theorem toNat_sub_ofNat_sub_self (l : Byte) {k : Nat} (hpos : 1 ≤ k) (hk : k ≤ 128) :
    ((l - BitVec.ofNat 8 k) - l).toNat = 256 - k := by
  simp only [BitVec.toNat_sub, BitVec.toNat_ofNat]
  omega

/-- C2: the differences above 127 are those of the bytes 1 to 128 steps behind; the number of steps is
the opposite difference l - c. -/
theorem lt_toNat_sub_iff_exists_steps_behind (c l : Byte) :
    127 < (c - l).toNat ↔ ∃ k : Nat, 1 ≤ k ∧ k ≤ 128 ∧ c = l - BitVec.ofNat 8 k := by
  constructor
  · intro hstale
    obtain ⟨hpos, hk⟩ : 1 ≤ (l - c).toNat ∧ (l - c).toNat ≤ 128 := by bv_omega
    have hc : c = l - BitVec.ofNat 8 (l - c).toNat := by
      rw [BitVec.ofNat_toNat, BitVec.setWidth_eq, sub_sub_self]
    exact ⟨(l - c).toNat, hpos, hk, hc⟩
  · rintro ⟨k, hpos, hk, rfl⟩
    rw [toNat_sub_ofNat_sub_self l hpos hk]
    omega

/-- Settles O18: the verdict is the comparison of diff with 127, and the counters with a greater diff are
those 1 to 128 steps behind. -/
theorem staleMeansOneToOneTwentyEightBehind : Obligations.StaleMeansOneToOneTwentyEightBehind :=
  fun F S => ⟨accepts_eq_true_iff F S, accepts_eq_false_iff F S,
    (accepts_eq_false_iff F S).trans (lt_toNat_sub_iff_exists_steps_behind _ _)⟩

end Sys2Proof.Machine
end

section
/-! PROOFS. The rotary stage (R90 to R93): what an unchanged position leaves, and which events of a
frame's transaction are rotary events. -/

namespace Sys2Proof.Machine

/-- Settles O25: `posChanged` is 0 on equal positions, which selects NO-CHANGE in the event and in the write. -/
theorem unchangedPositionGivesNothing : Obligations.UnchangedPositionGivesNothing := by
  intro F S hpos
  have hsame : ¬ posChanged (framePos F) S.lastPos = true := by
    rw [posChanged_iff, not_not]
    exact hpos
  exact ⟨if_neg hsame, if_neg hsame⟩

/-- An accepted frame in the transaction's domain: the events are those of the two stages, in their order,
both against S0-S4 as the resync left them. -/
theorem events_of_transaction_of_accepts {p : Params} {F : Frame} {S T : Arch} {evs : List Event}
    (ha : accepts F S = true) (h : transaction p F S = some (T, evs)) :
    evs = expectedRotary (framePos F) (resyncStage F S).lastPos
      ++ expectedSwitches p F (resyncStage F S) := by
  have hlegal : ∀ ch, readField (resyncStage F S) ch ≠ 0b11#2 := fun ch hch => by
    have hnone : transaction p F S = none := (transaction_eq_none_iff p F S).2 ⟨ha, ch, hch⟩
    exact Option.some_ne_none _ (h.symm.trans hnone)
  obtain ⟨T', hT', _⟩ := transaction_of_accepts p ha hlegal
  obtain ⟨_hT, hevs⟩ := Prod.mk.inj (Option.some.inj (h.symm.trans hT'))
  exact hevs

theorem isSwitch_of_mem_expectedSwitches {p : Params} {F : Frame} {S : Arch} {e : Event}
    (he : e ∈ expectedSwitches p F S) : isSwitch e = true := by
  obtain ⟨ch, _hch, hswitch⟩ := List.mem_filterMap.1 he
  obtain ⟨k, _hk, rfl⟩ := Option.map_eq_some_iff.1 hswitch
  rfl

theorem isSwitch_of_mem_expectedRotary {pos lastPos : Position} {e : Event}
    (he : e ∈ expectedRotary pos lastPos) : isSwitch e = false := by
  unfold expectedRotary at he
  split at he
  · exact absurd he List.not_mem_nil
  · rw [List.mem_singleton.1 he]
    rfl

/-- The rotary part is kept whole and the switch part is dropped. -/
theorem filter_not_isSwitch_rotary_append_switches (pos lastPos : Position) (p : Params) (F : Frame)
    (S : Arch) :
    ((expectedRotary pos lastPos ++ expectedSwitches p F S).filter fun e => !isSwitch e)
      = expectedRotary pos lastPos := by
  have hrotary : ((expectedRotary pos lastPos).filter fun e => !isSwitch e) = expectedRotary pos lastPos :=
    List.filter_eq_self.2 fun e he => by simp [isSwitch_of_mem_expectedRotary he]
  have hswitches : ((expectedSwitches p F S).filter fun e => !isSwitch e) = [] :=
    List.filter_eq_nil_iff.2 fun e he => by simp [isSwitch_of_mem_expectedSwitches he]
  rw [List.filter_append, hrotary, hswitches, List.append_nil]

/-- Settles O26, by the guard's verdict: a stale frame has no event and keeps S0-S4; an accepted one has
the rotary stage's event and then switch events only. -/
theorem frameHasAtMostOneRotaryEvent : Obligations.FrameHasAtMostOneRotaryEvent := by
  intro p F S T evs h
  cases ha : accepts F S with
  | false =>
    obtain ⟨rfl, rfl⟩ := Prod.mk.inj (Option.some.inj ((transaction_of_stale p ha).symm.trans h))
    simp
  | true =>
    rw [events_of_transaction_of_accepts ha h, filter_not_isSwitch_rotary_append_switches, expectedRotary]
    by_cases hpos : framePos F = (resyncStage F S).lastPos <;> simp [hpos]

end Sys2Proof.Machine
end

section
/-! PROOFS. The classifiers (R101, R102): the priority of Primary that both share, the mask test bit by bit,
the low half of byte 3 as all that center reads, and left's two nibbles against the other directions' pairs. -/

namespace Sys2Proof.Machine

/-- The three outcomes of a test for Primary followed by a test for Extended, the shape of both classifiers. -/
theorem eq_iff_of_primary_first {c : Classification} (P E : Prop) [Decidable P] [Decidable E]
    (hc : c = if P then .primary else if E then .extended else .released) :
    (c = .primary ↔ P) ∧ (c = .extended ↔ ¬P ∧ E) ∧ (c = .released ↔ ¬P ∧ ¬E) := by
  by_cases hP : P
  · simp [hc, hP]
  · by_cases hE : E <;> simp [hc, hP, hE]

theorem classifyBit_eq_iff (m : Masks) (raw : Byte) :
    (classifyBit m raw = .primary ↔ raw &&& m.primary ≠ 0#8)
      ∧ (classifyBit m raw = .extended ↔ raw &&& m.primary = 0#8 ∧ raw &&& m.extended ≠ 0#8)
      ∧ (classifyBit m raw = .released ↔ raw &&& m.primary = 0#8 ∧ raw &&& m.extended = 0#8) := by
  simpa only [not_not, ne_eq] using
    eq_iff_of_primary_first (c := classifyBit m raw)
      (raw &&& m.primary ≠ 0#8) (raw &&& m.extended ≠ 0#8) rfl

theorem classifyNib_eq_iff (n : Nibbles) (v : Nibble) :
    (classifyNib n v = .primary ↔ v = n.primary)
      ∧ (classifyNib n v = .extended ↔ v ≠ n.primary ∧ v = n.extended)
      ∧ (classifyNib n v = .released ↔ v ≠ n.primary ∧ v ≠ n.extended) :=
  eq_iff_of_primary_first (v = n.primary) (v = n.extended) rfl

/-- A mask test finds nothing when no bit is set in both bytes. -/
theorem and_eq_zero_iff_no_common_bit (a b : Byte) :
    a &&& b = 0#8 ↔ ∀ i < 8, ¬(a.getLsbD i = true ∧ b.getLsbD i = true) := by
  simp only [BitVec.eq_of_getLsbD_eq_iff, BitVec.getLsbD_and, BitVec.getLsbD_zero, ← Bool.and_eq_true,
    Bool.not_eq_true]

theorem and_ne_zero_iff_common_bit (a b : Byte) :
    a &&& b ≠ 0#8 ↔ ∃ i < 8, a.getLsbD i = true ∧ b.getLsbD i = true := by
  rw [ne_eq, and_eq_zero_iff_no_common_bit]
  push Not
  rfl

/-- A mask with bits [7:4] clear tests bits [3:0] only. -/
theorem and_mask_congr_of_low_nibble {a b mask : Byte} (hmask : mask &&& 0xF0#8 = 0#8)
    (h : a.extractLsb' 0 4 = b.extractLsb' 0 4) : a &&& mask = b &&& mask := by
  apply BitVec.eq_of_getLsbD_eq
  intro i hi
  rw [BitVec.getLsbD_and, BitVec.getLsbD_and]
  by_cases hlow : i < 4
  · have hbit : a.getLsbD i = b.getLsbD i := by
      simpa [BitVec.getLsbD_extractLsb', hlow] using congrArg (fun n => n.getLsbD i) h
    rw [hbit]
  · have hhigh : ∀ j < 8, ¬j < 4 → (0xF0#8).getLsbD j = true := by decide
    have hclear : mask.getLsbD i = false := by
      simpa [BitVec.getLsbD_and, hhigh i hi hlow] using congrArg (fun m => m.getLsbD i) hmask
    rw [hclear, Bool.and_false, Bool.and_false]

/-- R8 item 3. -/
theorem center_inLowNibble (c : Configuration) :
    c.params.center.primary &&& 0xF0#8 = 0#8 ∧ c.params.center.extended &&& 0xF0#8 = 0#8 := by
  have h := c.legal
  simp only [Params.legal, Params.masksLegal, Masks.inLowNibble, Bool.and_eq_true, beq_iff_eq] at h
  obtain ⟨⟨⟨_hmasks, hcenter⟩, _hnibbles⟩, _hcodes⟩ := h
  exact hcenter

/-- R57: center reads the half of byte 3 that is not the directional nibble. -/
theorem classify_center_congr (c : Configuration) {F G : Frame} (h : frameB3lo F = frameB3lo G) :
    classify c.params F .center = classify c.params G .center := by
  obtain ⟨hprimary, hextended⟩ := center_inLowNibble c
  change classifyBit c.params.center (frameByte F 3) = classifyBit c.params.center (frameByte G 3)
  rw [classifyBit, classifyBit, and_mask_congr_of_low_nibble hprimary h,
    and_mask_congr_of_low_nibble hextended h]

/-- Settles O28: the mask tests read bit by bit, Primary's first; each channel's row of R58; and R8 item 3
for center. -/
theorem independentBitClassification : Obligations.IndependentBitClassification := by
  refine ⟨fun m raw => ?_, fun p F => ⟨rfl, rfl, rfl, rfl, rfl, rfl, rfl, rfl⟩,
    fun c F G h => classify_center_congr c h, by decide, by decide, by decide⟩
  obtain ⟨hprimary, hextended, hreleased⟩ := classifyBit_eq_iff m raw
  rw [and_ne_zero_iff_common_bit] at hprimary
  rw [and_eq_zero_iff_no_common_bit, and_ne_zero_iff_common_bit] at hextended
  rw [and_eq_zero_iff_no_common_bit, and_eq_zero_iff_no_common_bit, ← forall₂_and] at hreleased
  simp only [← not_or, ← and_or_left] at hreleased
  exact ⟨hprimary, hextended, hreleased⟩

/-- R8 item 4 for left: its two values match neither value of another direction's pair. -/
theorem classifyNib_eq_released_of_leftNibbles {p : Params} (hnodup : p.nibbleTable.Nodup) {v : Nibble}
    (hv : v = leftNibbles.primary ∨ v = leftNibbles.extended) {n : Nibbles}
    (hn : n ∈ [p.up, p.right, p.down]) : classifyNib n v = .released := by
  have hsplit : p.nibbleTable = [leftNibbles.primary, leftNibbles.extended]
      ++ [p.up, p.right, p.down].flatMap fun n => [n.primary, n.extended] := rfl
  rw [hsplit, List.nodup_append] at hnodup
  obtain ⟨_hleft, _hothers, hdisjoint⟩ := hnodup
  have hne : ∀ w ∈ [n.primary, n.extended], v ≠ w := fun w hw =>
    hdisjoint v (List.mem_pair.2 hv) w (List.mem_flatMap.2 ⟨n, hn, hw⟩)
  exact (classifyNib_eq_released_iff n v).2 ⟨hne _ (by simp), hne _ (by simp)⟩

theorem classify_eq_released_of_leftNibbles (c : Configuration) {F : Frame}
    (hF : frameDirnib F = leftNibbles.primary ∨ frameDirnib F = leftNibbles.extended) {d : Channel}
    (hd : d ∈ directions) (hleft : d ≠ .left) : classify c.params F d = .released := by
  obtain ⟨hnodup, _hzero⟩ := (nibblesLegal_iff c.params).1 (nibblesLegal_of_configuration c)
  have hrow : ∀ n ∈ [c.params.up, c.params.right, c.params.down],
      classifyNib n (frameDirnib F) = .released :=
    fun n hn => classifyNib_eq_released_of_leftNibbles hnodup hF hn
  simp only [directions, List.mem_cons, List.not_mem_nil, or_false] at hd
  rcases hd with rfl | rfl | rfl | rfl
  · exact absurd rfl hleft
  · exact hrow c.params.up (by simp)
  · exact hrow c.params.right (by simp)
  · exact hrow c.params.down (by simp)

/-- Settles O29: the exact match, Primary's first; the four directions' rows of R58; O30 for the unlisted
values; and left's pair, which R8 item 4 keeps from the other three. -/
theorem sharedNibbleClassification : Obligations.SharedNibbleClassification := by
  refine ⟨classifyNib_eq_iff, fun p F => ⟨rfl, rfl, rfl, rfl⟩, fun c F => ?_⟩
  obtain ⟨hunlisted, hzero⟩ := unlistedNibbleEngagesNoDirection c F
  obtain ⟨hprimary, hextended, _hreleased⟩ := classifyNib_eq_iff leftNibbles (frameDirnib F)
  refine ⟨hunlisted, hzero, fun hA => ⟨hprimary.2 hA, fun d hd hleft => ?_⟩,
    fun hB => ⟨hextended.2 ⟨?_, hB⟩, fun d hd hleft => ?_⟩⟩
  · exact classify_eq_released_of_leftNibbles c (.inl hA) hd hleft
  · rw [hB]
    decide
  · exact classify_eq_released_of_leftNibbles c (.inr hB) hd hleft

end Sys2Proof.Machine
end

section
/-! PROOFS. The transition table (R104) and the write of one turn of the channel loop (R106). -/

namespace Sys2Proof.Machine

theorem transition_eleven (raw : Classification) : transition 0b11#2 raw = none := if_pos rfl

theorem transition_of_ne_eleven {prev : BitVec 2} (h : prev ≠ 0b11#2) (raw : Classification) :
    transition prev raw = some (raw, expectedKind prev raw) := by
  rw [transition, if_neg h, transitionEvent_eq]

theorem transition_eq_some {prev : BitVec 2} {raw new : Classification} {ev : Option Kind}
    (h : transition prev raw = some (new, ev)) : new = raw ∧ ev = expectedKind prev raw := by
  by_cases hprev : prev = 0b11#2
  · rw [hprev, transition_eleven] at h
    cases h
  · rw [transition_of_ne_eleven hprev] at h
    cases h
    exact ⟨rfl, rfl⟩

/-- The XOR of R104: an event occurs where exactly one of prev and raw is None. -/
theorem isSome_expectedKind_iff (prev : BitVec 2) (raw : Classification) :
    (expectedKind prev raw).isSome = true ↔ ¬(prev = 0b00#2 ↔ raw = .released) := by
  by_cases hprev : prev = 0b00#2 <;> cases raw <;> simp [expectedKind, hprev]

/-- Settles O32: the rows by evaluation, the rule from what a row that is not refused holds. -/
theorem transitionTableRows : Obligations.TransitionTableRows := by
  refine ⟨rfl, rfl, rfl, rfl, rfl, rfl, rfl, rfl, rfl, transition_eleven, rfl, rfl, rfl,
    fun prev raw new ev h => ?_⟩
  obtain ⟨rfl, rfl⟩ := transition_eq_some h
  rw [isSome_expectedKind_iff, classCode_eq_zero]
  exact ⟨rfl, rfl, Iff.rfl⟩

/-- Settles O33: the write is of the raw classification's code, which is the table's new value. -/
theorem edgeWriteTouchesOneField : Obligations.EdgeWriteTouchesOneField := by
  intro p F ch S T
  have hfield : readField T ch = classCode (classify p F ch) := readField_channelWrite p F ch S
  refine ⟨fun new ev h => ?_, hfield, ?_, fun other hother => ?_, ?_, ?_⟩
  · obtain ⟨rfl, _hev⟩ := transition_eq_some h
    exact hfield
  · rw [hfield]
    exact classCode_ne_eleven _
  · exact readField_channelWrite_of_ne p F S hother.symm
  · exact channelWrite_lastCounter p F ch S
  · exact channelWrite_lastPos p F ch S

end Sys2Proof.Machine
end

section
/-! PROOFS. The encoder and the decoder are inverse to each other (R55, R56, R67, R68), and 8 bytes
are the only length of a frame (R45, R69). -/

namespace Sys2Proof

theorem decodeWord_encodeWord (c : Byte) (b : Body) :
    decodeWord (encodeWord c b) = if c = 0#8 then .decodeResync b else .decode c b := by
  rw [decodeWord, frameCounter_encodeWord, frameBody_encodeWord]

/-- Settles O3, by the rows of the table: a frame's counter byte selects its own row again. -/
theorem encodedOperationsDecodeBack : Obligations.EncodedOperationsDecodeBack := by
  intro i hwf
  cases i with
  | decodeResync b => exact (decodeWord_encodeWord 0#8 b).trans (if_pos rfl)
  | decode c b =>
    have hc : c ≠ 0#8 := by simpa [Instr.wellFormed] using hwf
    exact (decodeWord_encodeWord c b).trans (if_neg hc)
  | reset => rfl

theorem wellFormed_decodeWord (F : Frame) : (decodeWord F).wellFormed = true := by
  unfold decodeWord
  split
  · rfl
  · next hc => simpa [Instr.wellFormed] using hc

theorem encode_decodeWord (F : Frame) : encode (decodeWord F) = { rst := false, frame := F } := by
  have hF := encodeWord_frameBody F
  unfold decodeWord
  split
  · next hc =>
    rw [hc] at hF
    rw [encode, hF]
  · rw [encode, hF]

/-- Settles O4: the operation is the one the word decodes to. -/
theorem everyFrameWordDecodesAndEncodesBack : Obligations.EveryFrameWordDecodesAndEncodesBack :=
  fun F => ⟨decodeWord F, decodeBytes_frameBytes F, wellFormed_decodeWord F, encode_decodeWord F⟩

theorem decodeBytes_of_length_ne {bytes : List Byte} (h : bytes.length ≠ 8) :
    decodeBytes bytes = if bytes.length < 8 then .error .shortFrame else .error .longFrame := by
  unfold decodeBytes
  split
  · exact absurd rfl h
  · rfl

theorem decodeBytes_of_length_eq {bytes : List Byte} (h : bytes.length = 8) :
    ∃ i, decodeBytes bytes = .ok i := by
  match bytes, h with
  | [b0, b1, b2, b3, b4, b5, b6, b7], _ => exact ⟨decodeWord (joinBytes b0 b1 b2 b3 b4 b5 b6 b7), rfl⟩

/-- Settles O5: any length but 8 is rejected, by the side of 8 it lies on. -/
theorem onlyEightBytesAreAFrame : Obligations.OnlyEightBytesAreAFrame := by
  intro bytes
  refine ⟨fun hshort => ?_, fun hlong => ?_, decodeBytes_of_length_eq⟩
  · rw [decodeBytes_of_length_ne hshort.ne, if_pos hshort]
  · rw [decodeBytes_of_length_ne hlong.ne', if_neg hlong.not_gt]

/-- Settles O2, by evaluating the decoder on the four offers. -/
theorem writtenOutFramesDecode : Obligations.WrittenOutFramesDecode := ⟨rfl, rfl, rfl, rfl⟩

end Sys2Proof
end

section
/-! PROOFS. At most one direction classifies as engaged (R8 item 4, R103). -/

namespace Sys2Proof.Machine

/-- A direction's pair of the directional table (R60). -/
def directionNibbles (p : Params) : Channel → Nibbles
  | .up => p.up
  | .right => p.right
  | .down => p.down
  | _ => leftNibbles

/-- The two values that engage a direction. -/
def directionValues (p : Params) (d : Channel) : List Nibble :=
  [(directionNibbles p d).primary, (directionNibbles p d).extended]

theorem nibbleTable_eq_flatMap (p : Params) : p.nibbleTable = directions.flatMap (directionValues p) := rfl

/-- R8 item 4, between two directions. -/
theorem disjoint_directionValues (c : Configuration) {a b : Channel} (ha : a ∈ directions)
    (hb : b ∈ directions) (hne : a ≠ b) :
    List.Disjoint (directionValues c.params a) (directionValues c.params b) := by
  obtain ⟨hnodup, _hzero⟩ := (nibblesLegal_iff c.params).1 (nibblesLegal_of_configuration c)
  rw [nibbleTable_eq_flatMap, List.nodup_flatMap] at hnodup
  obtain ⟨_hpairs, hdisjoint⟩ := hnodup
  have hsymm : Std.Symm (Function.onFun List.Disjoint (directionValues c.params)) :=
    ⟨fun _ _ h => h.symm⟩
  exact hdisjoint.forall ha hb hne

theorem classify_direction (p : Params) (F : Frame) {d : Channel} (hd : d ∈ directions) :
    classify p F d = classifyNib (directionNibbles p d) (frameDirnib F) := by
  simp only [directions, List.mem_cons, List.not_mem_nil, or_false] at hd
  rcases hd with rfl | rfl | rfl | rfl <;> rfl

theorem frameDirnib_mem_of_classify_ne_released {p : Params} {F : Frame} {d : Channel}
    (hd : d ∈ directions) (h : classify p F d ≠ .released) : frameDirnib F ∈ directionValues p d := by
  rw [classify_direction p F hd, ne_eq, classifyNib_eq_released_iff] at h
  simp only [directionValues, List.mem_cons, List.not_mem_nil, or_false]
  tauto

/-- Settles O31: the nibble of the frame lies in the pairs of both directions, and the table lists no
value twice. -/
theorem atMostOneDirectionPerFrame : Obligations.AtMostOneDirectionPerFrame := by
  intro c F a b ha hb hclassA hclassB
  by_contra hne
  exact disjoint_directionValues c ha hb hne (frameDirnib_mem_of_classify_ne_released ha hclassA)
    (frameDirnib_mem_of_classify_ne_released hb hclassB)

end Sys2Proof.Machine
end

section
/-! PROOFS. The transaction (R122) by its two outcomes, stale or accepted, with what an accepted frame
leaves in S0-S4 named once. -/

namespace Sys2Proof.Machine

/-- S0-S4 after an accepted frame: its counter, its position and its classifications (R82, R94, R107). -/
structure AfterFrame (p : Params) (F : Frame) (T : Arch) : Prop where
  counter : T.lastCounter = frameCounter F
  pos : T.lastPos = framePos F
  fields : ∀ ch, readField T ch = classCode (classify p F ch)

/-- The events of an accepted frame, against S0-S4 as the resync step left them. -/
def frameEvents (p : Params) (F : Frame) (S : Arch) : List Event :=
  expectedRotary (framePos F) (resyncStage F S).lastPos ++ expectedSwitches p F (resyncStage F S)

/-- Nothing of the state before an accepted frame is left in S0-S4 (R27, R107). -/
theorem AfterFrame.unique {p : Params} {F : Frame} {T T' : Arch} (h : AfterFrame p F T)
    (h' : AfterFrame p F T') : T = T' :=
  Arch.eq_of_fields (h.counter.trans h'.counter.symm) (h.pos.trans h'.pos.symm) fun ch =>
    (h.fields ch).trans (h'.fields ch).symm

theorem AfterFrame.legal {p : Params} {F : Frame} {T : Arch} (h : AfterFrame p F T) (ch : Channel) :
    readField T ch ≠ 0b11#2 := by
  rw [h.fields ch]
  exact classCode_ne_eleven _

theorem transaction_accepted (p : Params) {F : Frame} {S : Arch} (ha : accepts F S = true)
    (hl : ∀ ch, readField (resyncStage F S) ch ≠ 0b11#2) :
    ∃ T, AfterFrame p F T ∧ transaction p F S = some (T, frameEvents p F S) := by
  obtain ⟨T, hT, hcounter, hpos, hfields⟩ := transaction_of_accepts p ha hl
  exact ⟨T, ⟨hcounter, hpos, hfields⟩, hT⟩

theorem legal_of_transaction {p : Params} {F : Frame} {S : Arch} {r : Arch × List Event}
    (ha : accepts F S = true) (h : transaction p F S = some r) (ch : Channel) :
    readField (resyncStage F S) ch ≠ 0b11#2 := fun hch => by
  rw [(transaction_eq_none_iff p F S).2 ⟨ha, ch, hch⟩] at h
  cases h

/-- What a transaction with a result did. -/
theorem transaction_cases {p : Params} {F : Frame} {S T : Arch} {evs : List Event}
    (h : transaction p F S = some (T, evs)) :
    (accepts F S = false ∧ T = S ∧ evs = [])
      ∨ (accepts F S = true ∧ AfterFrame p F T ∧ evs = frameEvents p F S) := by
  cases ha : accepts F S with
  | false =>
    rw [transaction_of_stale p ha] at h
    cases h
    exact .inl ⟨rfl, rfl, rfl⟩
  | true =>
    obtain ⟨T', hT', htrans⟩ := transaction_accepted p ha (legal_of_transaction ha h)
    rw [htrans] at h
    cases h
    exact .inr ⟨rfl, hT', rfl⟩

end Sys2Proof.Machine
end

section
/-! PROOFS. One step and one edge, by cases: what each of them can answer (R67, R145, R172), and the
rule by which a property of every edge is a property of `settle`. -/

namespace Sys2Proof.Machine

theorem exec_decode (c : Byte) (b : Body) (s : State) :
    exec (.decode c b) s = frameOperation (encodeWord c b) s := rfl

theorem exec_decodeResync (b : Body) (s : State) :
    exec (.decodeResync b) s = frameOperation (encodeWord 0#8 b) s := rfl

theorem exec_reset (s : State) : exec .reset s = .next s.afterReset := rfl

@[simp] theorem State.withPins_self (s : State) : s.withPins s.pins = s := rfl

theorem channelOrder_get_channelIndex (ch : Channel) : channelOrder[channelIndex ch] = ch := by
  cases ch <;> rfl

theorem channelIndex_injective {a b : Channel} (h : channelIndex a = channelIndex b) : a = b := by
  rw [← channelOrder_get_channelIndex a, h, channelOrder_get_channelIndex]

theorem walked_iff (pos ch : Channel) : walked pos ch = true ↔ channelIndex ch < channelIndex pos :=
  decide_eq_true_iff

/-- Nothing is passed at the start of the walk. -/
@[simp] theorem walked_center (ch : Channel) : walked .center ch = false :=
  decide_eq_false (Fin.not_lt_zero _)

/-- One turn of the walk passes one more channel. -/
theorem walked_next {a b : Channel} (h : nextChannel a = some b) (ch : Channel) :
    walked b ch = true ↔ walked a ch = true ∨ ch = a := by
  have hidx : (channelIndex b).val = (channelIndex a).val + 1 := channelIndex_next h
  rw [walked_iff, walked_iff, Fin.lt_def, Fin.lt_def, hidx, Nat.lt_succ_iff, Nat.le_iff_lt_or_eq]
  exact or_congr_right ⟨fun e => channelIndex_injective (Fin.ext e), fun e => e ▸ rfl⟩

/-- The last turn passes the only channel that is left. -/
theorem walked_last {a : Channel} (h : nextChannel a = none) (ch : Channel) :
    walked a ch = true ∨ ch = a := by
  rw [channelIndex_last h]
  cases ch <;> decide

theorem edge_before_reset {s t : State} (hw : s.wasReset = false) (hr : s.pins.rst = false)
    (h : edge s = .next t) : s.pins.frameValid = false ∧ t = s.unspecified := by
  cases hv : s.pins.frameValid with
  | true => simp [edge, hw, hr, hv] at h
  | false =>
    simp only [edge, hw, hr, hv, Bool.false_eq_true, if_false, Bool.not_false, if_true] at h
    cases h
    exact ⟨rfl, rfl⟩

/-- ROT's edge, where its event is taken or there is none (R145). -/
theorem edge_rot_of_not_stalled {s : State} (hw : s.wasReset = true) (hr : s.pins.rst = false)
    (hp : s.phase = .rot) (hs : s.stalled = false) :
    edge s = .next (s.advance (rotaryStage s.frame s.arch) .ch .center
      (expectedRotary (framePos s.frame) s.arch.lastPos)) := by
  rw [stalled_of_presented (presented_rot hr hp), Bool.not_eq_false'] at hs
  rw [edge_rot hw hr hp, rotEdge, if_pos hs, rotaryEvent_toList]

/-- CH's edge, where its event is taken or there is none, if it answers a next state (R145): one field
is written, and the walk goes on or ends. -/
theorem edge_ch_of_not_stalled {s t : State} (hw : s.wasReset = true) (hr : s.pins.rst = false)
    (hp : s.phase = .ch) (hs : s.stalled = false) (h : edge s = .next t) :
    (∃ c, nextChannel s.chan = some c
        ∧ t = s.advance (channelWrite s.config.params s.frame s.chan s.arch) .ch c
            (expectedSwitch s.config.params s.frame s.arch s.chan).toList)
      ∨ (nextChannel s.chan = none
        ∧ t = s.advance (channelWrite s.config.params s.frame s.chan s.arch) .idle .center
            (expectedSwitch s.config.params s.frame s.arch s.chan).toList) := by
  have hfield : readField s.arch s.chan ≠ 0b11#2 := fun h3 => by simp [edge_ch hw hr hp, h3] at h
  rw [stalled_of_presented (by rw [presented_ch hr hp, if_neg hfield]), Bool.not_eq_false'] at hs
  simp only [edge_ch hw hr hp, if_neg hfield, hs, if_true] at h
  cases hn : nextChannel s.chan with
  | some c =>
    simp only [hn] at h
    cases h
    exact .inl ⟨c, rfl, rfl⟩
  | none =>
    simp only [hn] at h
    cases h
    exact .inr ⟨rfl, rfl⟩

/-- What every edge of a frame in progress keeps, `settle` keeps. -/
theorem settle_keeps {P : State → Prop}
    (hedge : ∀ u v, P u → u.phase ≠ .idle → u.stalled = false → edge u = .next v → P v) :
    ∀ (n : Nat) (s t : State), P s → settle n s = .next t → P t := by
  intro n
  induction n with
  | zero =>
    intro s t hs h
    cases h
    exact hs
  | succ n ih =>
    intro s t hs h
    simp only [settle] at h
    split at h
    · cases h
      exact hs
    · next hgo =>
      simp only [Bool.or_eq_true, decide_eq_true_eq, not_or, Bool.not_eq_true] at hgo
      obtain ⟨hphase, hstall⟩ := hgo
      cases he : edge s with
      | fault r => cases r
      | refused r => simp [he] at h
      | next u =>
        simp only [he] at h
        exact ih u t (hedge s u hs hphase hstall he) h

/-- A step that answers a next state is a RESET, an edge before the first RESET, a frame operation that
completes, or the frame in progress (or just captured) run to a wait. -/
theorem step_cases {s t : State} (h : step s = .next t) :
    (s.pins.rst = true ∧ t = s.afterReset)
      ∨ (s.wasReset = false ∧ t = s.unspecified)
      ∨ (s.takesFrame = true ∧ ∃ S evs,
          transaction s.config.params s.pins.frameData s.arch = some (S, evs)
            ∧ t = s.finished s.pins.frameData S evs)
      ∨ (s.wasReset = true ∧ s.pins.rst = false
          ∧ ∃ u, (u = s ∨ s.phase = .idle ∧ u = s.capture s.pins.frameData) ∧ settle 14 u = .next t) := by
  cases hr : s.pins.rst with
  | true =>
    rw [step_reset hr] at h
    cases h
    exact .inl ⟨rfl, rfl⟩
  | false =>
    by_cases hframe : s.phase = .idle ∧ s.pins.frameValid = true
    · obtain ⟨hp, hv⟩ := hframe
      rw [step_frame hr hp hv] at h
      obtain ⟨hw, hnot | ⟨htakes, S, evs, htrans, hdone | hheld⟩⟩ := frameOperation_next h
      · simp [State.frameReady, hp, hr] at hnot
      · exact .inr (.inr (.inl ⟨htakes, S, evs, htrans, hdone.2⟩))
      · exact .inr (.inr (.inr ⟨hw, rfl, _, .inr ⟨hp, rfl⟩, hheld.2⟩))
    · have hidle : s.phase ≠ .idle ∨ s.pins.frameValid = false := by
        rw [← Bool.not_eq_true]
        exact not_and_or.1 hframe
      rw [step_continue hr hidle, continueFrame] at h
      cases hw : s.wasReset with
      | true =>
        rw [hw, if_pos rfl] at h
        exact .inr (.inr (.inr ⟨rfl, rfl, s, .inl rfl, h⟩))
      | false =>
        simp only [hw, Bool.false_eq_true, if_false] at h
        exact .inr (.inl ⟨rfl, (edge_before_reset hw hr h).2⟩)

end Sys2Proof.Machine
end

section
/-! PROOFS. The invariant (R26, R30, R103, R108) as a proposition, and its preservation by every edge
and every step. -/

namespace Sys2Proof.Machine

/-- Among the directions the walk, now at `pos`, has not passed, at most one is engaged. -/
def ExclusiveFrom (pos : Channel) (S : Arch) : Prop :=
  ∀ a ∈ directions, ∀ b ∈ directions, walked pos a = false → walked pos b = false →
    engaged S a = true → engaged S b = true → a = b

/-- `State.inv` of a core that has had a RESET: outside the walk `chan` is center, which has passed
nothing, so one form serves every phase. -/
structure WalkInv (s : State) : Prop where
  legal : ∀ ch, readField s.arch ch ≠ 0b11#2
  chan_center : s.phase ≠ .ch → s.chan = .center
  passed : ∀ ch, walked s.chan ch = true →
    readField s.arch ch = classCode (classify s.config.params s.frame ch)
  exclusive : ExclusiveFrom s.chan s.arch

theorem engaged_iff (S : Arch) (ch : Channel) : engaged S ch = true ↔ readField S ch ≠ 0b00#2 := bne_iff_ne

theorem length_le_one_iff_of_nodup {α : Type} {l : List α} (h : l.Nodup) :
    l.length ≤ 1 ↔ ∀ a ∈ l, ∀ b ∈ l, a = b := by
  match l, h with
  | [], _ => simp
  | [x], _ => simp
  | x :: y :: l, h =>
    refine ⟨fun hlen => by simp at hlen, fun heq => ?_⟩
    have hxy : x = y := heq x (by simp) y (by simp)
    simp [hxy] at h

theorem atMostOneEngaged_iff {S : Arch} {chs : List Channel} (h : chs.Nodup) :
    atMostOneEngaged S chs = true
      ↔ ∀ a ∈ chs, ∀ b ∈ chs, engaged S a = true → engaged S b = true → a = b := by
  rw [atMostOneEngaged, decide_eq_true_iff, length_le_one_iff_of_nodup (h.filter _)]
  simp only [List.mem_filter]
  exact ⟨fun H a ha b hb ea eb => H a ⟨ha, ea⟩ b ⟨hb, eb⟩, fun H a ha b hb => H a ha.1 b hb.1 ha.2 hb.2⟩

theorem nodup_directions : directions.Nodup := by decide

theorem atMostOneEngaged_unwalked_iff (pos : Channel) (S : Arch) :
    atMostOneEngaged S (directions.filter fun ch => !walked pos ch) = true ↔ ExclusiveFrom pos S := by
  rw [atMostOneEngaged_iff (nodup_directions.filter _)]
  simp only [List.mem_filter, Bool.not_eq_true', ExclusiveFrom]
  exact ⟨fun H a ha b hb wa wb => H a ⟨ha, wa⟩ b ⟨hb, wb⟩, fun H a ha b hb => H a ha.1 b hb.1 ha.2 hb.2⟩

theorem atMostOneEngaged_directions_iff (S : Arch) :
    atMostOneEngaged S directions = true ↔ ExclusiveFrom .center S := by
  rw [atMostOneEngaged_iff nodup_directions]
  simp [ExclusiveFrom]

theorem all_walked_iff (s : State) :
    ((channelOrder.filter (walked s.chan)).all fun ch =>
        readField s.arch ch == classCode (classify s.config.params s.frame ch)) = true
      ↔ ∀ ch, walked s.chan ch = true →
          readField s.arch ch = classCode (classify s.config.params s.frame ch) := by
  simp only [List.all_eq_true, List.mem_filter, beq_iff_eq]
  exact ⟨fun H ch hch => H ch ⟨mem_channelOrder ch, hch⟩, fun H ch hch => H ch hch.2⟩

theorem inv_iff (s : State) : s.inv = true ↔ (s.wasReset = true → WalkInv s) := by
  cases hw : s.wasReset with
  | false => simp [State.inv, hw]
  | true =>
    by_cases hp : s.phase = .ch
    · simp only [State.inv, hw, hp, Bool.not_true, Bool.false_or, Bool.and_eq_true, decide_true,
        Bool.true_or, if_true, latchesLegal_iff, all_walked_iff, atMostOneEngaged_unwalked_iff,
        forall_const]
      exact ⟨fun ⟨⟨hlegal, _⟩, hpassed, hexcl⟩ => ⟨hlegal, fun hne => absurd hp hne, hpassed, hexcl⟩,
        fun hinv => ⟨⟨hinv.legal, trivial⟩, hinv.passed, hinv.exclusive⟩⟩
    · simp only [State.inv, hw, hp, Bool.not_true, Bool.false_or, Bool.and_eq_true, decide_false,
        decide_eq_true_eq, if_false, latchesLegal_iff, atMostOneEngaged_directions_iff, forall_const]
      constructor
      · rintro ⟨⟨hlegal, hchan⟩, hexcl⟩
        exact ⟨hlegal, fun _ => hchan, by simp [hchan], by rwa [hchan]⟩
      · intro hinv
        have hchan : s.chan = .center := hinv.chan_center hp
        exact ⟨⟨hinv.legal, hchan⟩, hchan ▸ hinv.exclusive⟩

/-- At the start of the walk, and outside it, there is no passed channel to speak of. -/
theorem WalkInv.of_center {s : State} (hchan : s.chan = .center)
    (hlegal : ∀ ch, readField s.arch ch ≠ 0b11#2) (hexcl : ExclusiveFrom .center s.arch) : WalkInv s :=
  ⟨hlegal, fun _ => hchan, by simp [hchan], by rwa [hchan]⟩

/-- Passing more channels, and changing none of the others, keeps the rest exclusive. -/
theorem ExclusiveFrom.mono {a b : Channel} {S T : Arch} (h : ExclusiveFrom a S)
    (hrest : ∀ ch, walked b ch = false → walked a ch = false ∧ readField T ch = readField S ch) :
    ExclusiveFrom b T := by
  intro d hd e he wd we ed ee
  obtain ⟨wd', rd⟩ := hrest d wd
  obtain ⟨we', re⟩ := hrest e we
  rw [engaged_iff, rd, ← engaged_iff] at ed
  rw [engaged_iff, re, ← engaged_iff] at ee
  exact h d hd e he wd' we' ed ee

theorem readField_initialArch_ne_eleven (ch : Channel) : readField initialArch ch ≠ 0b11#2 := by
  rw [readField_initialArch]
  decide

/-- A resync clears the latches, and another frame leaves them alone (R80). -/
theorem readField_resyncStage_ne_eleven {S : Arch} (h : ∀ ch, readField S ch ≠ 0b11#2) (F : Frame)
    (ch : Channel) : readField (resyncStage F S) ch ≠ 0b11#2 := by
  unfold resyncStage
  split
  · exact readField_initialArch_ne_eleven ch
  · exact h ch

theorem exclusiveFrom_initialArch (pos : Channel) : ExclusiveFrom pos initialArch := by
  intro a _ b _ _ _ ha _
  simp [engaged_iff] at ha

/-- Latches that hold one frame's classifications have at most one direction engaged (R103). -/
theorem exclusiveFrom_of_classified (c : Configuration) {F : Frame} {S : Arch}
    (h : ∀ ch, readField S ch = classCode (classify c.params F ch)) (pos : Channel) : ExclusiveFrom pos S := by
  intro a ha b hb _ _ ea eb
  rw [engaged_iff, h, ne_eq, classCode_eq_zero] at ea eb
  exact atMostOneDirectionPerFrame c F a b ha hb ea eb

theorem WalkInv.of_classified {s : State} {F : Frame} (hchan : s.chan = .center)
    (h : ∀ ch, readField s.arch ch = classCode (classify s.config.params F ch)) : WalkInv s :=
  .of_center hchan (fun ch => h ch ▸ classCode_ne_eleven _) (exclusiveFrom_of_classified s.config h _)

theorem walkInv_afterReset (s : State) : WalkInv s.afterReset :=
  .of_center rfl readField_initialArch_ne_eleven (exclusiveFrom_initialArch _)

theorem WalkInv.capture {s : State} (h : WalkInv s) (hp : s.phase = .idle) (F : Frame) :
    WalkInv (s.capture F) := by
  have hchan : s.chan = .center := h.chan_center (by simp [hp])
  exact .of_center hchan h.legal (hchan ▸ h.exclusive)

theorem ExclusiveFrom.of_resyncStage {pos : Channel} {S : Arch} (h : ExclusiveFrom pos S) (F : Frame) :
    ExclusiveFrom pos (resyncStage F S) := by
  unfold resyncStage
  split
  · exact exclusiveFrom_initialArch _
  · exact h

theorem WalkInv.guard {s : State} (h : WalkInv s) (hp : s.phase = .guard) : WalkInv (guardEdge s) := by
  have hchan : s.chan = .center := h.chan_center (by simp [hp])
  have hfield : ∀ ch, readField (guardEdge s).arch ch = readField (resyncStage s.frame s.arch) ch :=
    readField_guardStage s.frame s.arch
  exact .of_center hchan (fun ch => hfield ch ▸ readField_resyncStage_ne_eleven h.legal s.frame ch)
    (((hchan ▸ h.exclusive).of_resyncStage s.frame).mono fun ch hch => ⟨hch, hfield ch⟩)

theorem WalkInv.rot {s : State} (h : WalkInv s) (hp : s.phase = .rot) (evs : List Event) :
    WalkInv (s.advance (rotaryStage s.frame s.arch) .ch .center evs) := by
  have hchan : s.chan = .center := h.chan_center (by simp [hp])
  have hfield := readField_rotaryStage s.frame s.arch
  exact .of_center rfl (fun ch => by simpa [hfield] using h.legal ch)
    ((hchan ▸ h.exclusive).mono fun ch hch => ⟨hch, hfield ch⟩)

/-- One turn of the walk adds its channel to the ones that hold the frame's classification. -/
theorem readField_channelWrite_of_passed {p : Params} {F : Frame} {S : Arch} {pos : Channel}
    (h : ∀ ch, walked pos ch = true → readField S ch = classCode (classify p F ch)) {ch : Channel}
    (hch : walked pos ch = true ∨ ch = pos) :
    readField (channelWrite p F pos S) ch = classCode (classify p F ch) := by
  by_cases heq : pos = ch
  · rw [heq, readField_channelWrite]
  · rw [readField_channelWrite_of_ne _ _ _ heq]
    exact h ch (hch.resolve_right fun e => heq e.symm)

theorem WalkInv.next {s : State} (h : WalkInv s) {c : Channel} (hn : nextChannel s.chan = some c)
    (evs : List Event) :
    WalkInv (s.advance (channelWrite s.config.params s.frame s.chan s.arch) .ch c evs) where
  legal ch := by
    by_cases heq : s.chan = ch
    · rw [State.advance_arch, heq, readField_channelWrite]
      exact classCode_ne_eleven _
    · rw [State.advance_arch, readField_channelWrite_of_ne _ _ _ heq]
      exact h.legal ch
  chan_center hne := absurd rfl hne
  passed ch hch := readField_channelWrite_of_passed h.passed ((walked_next hn ch).1 hch)
  exclusive := h.exclusive.mono fun ch hch => by
    have hrest : ¬(walked s.chan ch = true ∨ ch = s.chan) := by
      rw [← walked_next hn, Bool.not_eq_true]
      exact hch
    obtain ⟨hwalked, hne⟩ := not_or.1 hrest
    exact ⟨Bool.not_eq_true _ ▸ hwalked, readField_channelWrite_of_ne _ _ _ fun e => hne e.symm⟩

theorem WalkInv.last {s : State} (h : WalkInv s) (hn : nextChannel s.chan = none) (evs : List Event) :
    WalkInv (s.advance (channelWrite s.config.params s.frame s.chan s.arch) .idle .center evs) :=
  .of_classified rfl fun ch => readField_channelWrite_of_passed h.passed (walked_last hn ch)

/-- Every edge after the first RESET, by phase. -/
theorem WalkInv.of_edge {s t : State} (h : WalkInv s) (hw : s.wasReset = true) (he : edge s = .next t) :
    WalkInv t := by
  cases hr : s.pins.rst with
  | true =>
    rw [edge_reset hr] at he
    cases he
    exact walkInv_afterReset s
  | false =>
    cases hs : s.stalled with
    | true =>
      rw [edge_of_stalled hw hr hs] at he
      cases he
      exact h
    | false =>
      cases hp : s.phase with
      | idle =>
        rw [edge_idle hw hr hp] at he
        cases he
        split
        · exact h.capture hp _
        · exact h
      | guard =>
        rw [edge_guard hw hr hp] at he
        cases he
        exact h.guard hp
      | rot =>
        rw [edge_rot_of_not_stalled hw hr hp hs] at he
        cases he
        exact h.rot hp _
      | ch =>
        obtain ⟨c, hn, rfl⟩ | ⟨hn, rfl⟩ := edge_ch_of_not_stalled hw hr hp hs he
        · exact h.next hn _
        · exact h.last hn _

theorem WalkInv.withPins {s : State} (h : WalkInv s) (p : Pins) : WalkInv (s.withPins p) :=
  ⟨h.legal, h.chan_center, h.passed, h.exclusive⟩

/-- Settles O57: before the first RESET an edge is a RESET or stays before it; after it, by phase. -/
theorem edgeKeepsTheInvariant : Obligations.EdgeKeepsTheInvariant := by
  intro s t p hinv he
  rw [inv_iff] at hinv ⊢
  intro hwt
  cases hw : s.wasReset with
  | true => exact ((hinv hw).withPins p).of_edge hw he
  | false =>
    cases hr : p.rst with
    | true =>
      rw [edge_reset hr] at he
      cases he
      exact walkInv_afterReset _
    | false =>
      obtain ⟨_hvalid, rfl⟩ := edge_before_reset (s := s.withPins p) hw hr he
      simp [hw] at hwt

/-- A frame operation that completes ends in latches of one frame, or, if stale, in those it began with. -/
theorem WalkInv.finished {s : State} (h : WalkInv s) (hp : s.phase = .idle) {F : Frame} {S : Arch}
    {evs : List Event} (htrans : transaction s.config.params F s.arch = some (S, evs)) :
    WalkInv (s.finished F S evs) := by
  have hchan : s.chan = .center := h.chan_center (by simp [hp])
  have hcenter : (s.finished F S evs).chan = .center := by simp [hchan]
  obtain ⟨_ha, rfl, _hevs⟩ | ⟨_ha, hafter, _hevs⟩ := transaction_cases htrans
  · exact .of_center hcenter h.legal (hchan ▸ h.exclusive)
  · exact .of_classified hcenter hafter.fields

/-- Settles O56, by what a step can be: a RESET, a completed frame operation, or edges up to a wait. -/
theorem stepKeepsTheInvariant : Obligations.StepKeepsTheInvariant := by
  intro s t hinv hstep
  rw [inv_iff] at hinv ⊢
  intro hwt
  obtain ⟨_hr, rfl⟩ | ⟨hw, rfl⟩ | ⟨htakes, S, evs, htrans, rfl⟩ | ⟨hw, _hr, u, hu, hsettle⟩ :=
    step_cases hstep
  · exact walkInv_afterReset s
  · simp [hw] at hwt
  · obtain ⟨hw, hp, _hr⟩ := (takesFrame_iff s).1 htakes
    exact (hinv hw).finished hp htrans
  · have hstart : u.inv = true := (inv_iff u).2 fun _ => by
      obtain rfl | ⟨hp, rfl⟩ := hu
      · exact hinv hw
      · exact (hinv hw).capture hp _
    have hend : t.inv = true := settle_keeps (P := fun u => u.inv = true)
      (fun v w hv _ _ he => edgeKeepsTheInvariant v w v.pins hv he) 14 u t hstart hsettle
    exact (inv_iff t).1 hend hwt

/-- Settles O55: the reset values are those a RESET writes. -/
theorem resetStateSatisfiesTheInvariant : Obligations.ResetStateSatisfiesTheInvariant :=
  (inv_iff _).2 fun _ =>
    .of_center rfl readField_initialArch_ne_eleven (exclusiveFrom_initialArch _)

end Sys2Proof.Machine
end

section
/-! PROOFS. What the ports select (R67), RESET and power-on (R124, R180, R182), launch (R8, R26), and
the frames the core does not take (R139, R140). -/

namespace Sys2Proof.Machine

/-- Settles O1, by what the ports select: rst, or the operation of the offered word. -/
theorem stepRunsTheSelectedOperation : Obligations.StepRunsTheSelectedOperation := by
  rintro s i _hwf (⟨hr, rfl⟩ | ⟨hr, hp, hv, hdecode⟩)
  · exact step_reset hr
  · rw [decodeBytes_frameBytes] at hdecode
    cases hdecode
    rw [step_frame hr hp hv, exec_decodeWord]

/-- Settles O6, by evaluating the fields and the outputs. -/
theorem resetStateHoldsTheListedValues : Obligations.ResetStateHoldsTheListedValues :=
  ⟨rfl, rfl, rfl, rfl, rfl, rfl, rfl, rfl, rfl⟩

/-- Settles O7: the writes of RESET, field by field. -/
theorem resetOperationResult : Obligations.ResetOperationResult :=
  fun s => ⟨s.afterReset, exec_reset s, rfl, rfl, rfl, rfl, rfl, rfl, rfl⟩

theorem outputs_of_rst {s : State} (hr : s.pins.rst = true) : outputs s = some (quietOutputs false) :=
  if_pos hr

/-- Settles O8: rst is tested first in the edge, in the step and in the outputs. -/
theorem resetHasPriorityAtEveryEdge : Obligations.ResetHasPriorityAtEveryEdge := by
  intro s hr
  rw [exec_reset]
  exact ⟨edge_reset hr, step_reset hr, outputs_of_rst hr⟩

theorem edge_frame_before_reset {s : State} (hw : s.wasReset = false) (hr : s.pins.rst = false)
    (hv : s.pins.frameValid = true) : edge s = .refused .frameBeforeReset := by
  simp [edge, hw, hr, hv]

/-- A frame offered before the first RESET is refused in every phase: in IDLE as an operation, elsewhere
by the edge. -/
theorem step_frame_before_reset {s : State} (hw : s.wasReset = false) (hr : s.pins.rst = false)
    (hv : s.pins.frameValid = true) : step s = .refused .frameBeforeReset := by
  by_cases hp : s.phase = .idle
  · rw [step_frame hr hp hv, frameOperation_before_reset _ hw]
  · rw [step_continue hr (.inl hp), continueFrame, hw]
    exact edge_frame_before_reset hw hr hv

/-- Settles O9: a power-on state has had no RESET, and rst high is RESET there too. -/
theorem powerOnNeedsAReset : Obligations.PowerOnNeedsAReset := by
  intro c p
  refine ⟨fun hr hv => ⟨?_, ?_⟩, fun hr => ⟨_, step_reset hr, rfl, rfl, rfl, rfl⟩⟩
  · exact step_frame_before_reset (s := State.powerOn c p) rfl hr hv
  · exact edge_frame_before_reset (s := State.powerOn c p) rfl hr hv

/-- Settles O10: both frame operations are one, and it asks for a RESET first. -/
theorem frameOperationsNeedAReset : Obligations.FrameOperationsNeedAReset := by
  intro c b s hw
  rw [exec_decode, exec_decodeResync]
  exact ⟨frameOperation_before_reset _ hw, frameOperation_before_reset _ hw⟩

/-- Settles O16: frame_ready is 0 outside IDLE and while rst is 1. -/
theorem busyCoreTakesNoFrame : Obligations.BusyCoreTakesNoFrame := by
  intro c b s hw hbusy
  have hready : s.frameReady = false := by
    rcases hbusy with hp | hr
    · simp [State.frameReady, hp]
    · simp [State.frameReady, hr]
  rw [exec_decode, exec_decodeResync]
  exact ⟨frameOperation_not_taken _ hw hready, frameOperation_not_taken _ hw hready⟩

/-- Settles O11, by the two tests of `launch` in their order. -/
theorem launchRefusesIllegalParametersAndLatches :
    Obligations.LaunchRefusesIllegalParametersAndLatches := by
  intro p S
  refine ⟨fun hp => ?_, fun hp hS => ?_, fun hp hS => ?_⟩
  · simp [launch, Configuration.ofParams, hp]
  · simp [launch, Configuration.ofParams, hp, hS]
  · exact ⟨{ State.reset with config := ⟨p, hp⟩, arch := S },
      by simp [launch, Configuration.ofParams, hp, hS], rfl, rfl⟩

/-- Settles O50: the edge of an IDLE core is the handshake or nothing. -/
theorem handshakeCapturesTheFrame : Obligations.HandshakeCapturesTheFrame := by
  intro s hw hr hp
  rw [edge_idle hw hr hp]
  refine ⟨fun hv => by rw [if_pos hv]; rfl, fun hv => ⟨by simp [hv], ?_⟩⟩
  rw [step_continue hr (.inr hv), continueFrame, if_pos hw]
  simp [settle, hp]

end Sys2Proof.Machine
end

section
/-! PROOFS. The fields each channel reads (R56 to R58), the guard's writes and its window after RESET
(R80 to R82, R86), and the codes of the events (R8 item 6, R65). -/

namespace Sys2Proof.Machine

/-- Settles O17: each channel's row of the table (O28, O29), on the bytes of an encoded frame. -/
theorem channelsReadTheirTableBytes : Obligations.ChannelsReadTheirTableBytes := by
  intro p c b
  obtain ⟨h3, h4, h5, h6, h7⟩ := frameByte_encodeWord c b
  obtain ⟨_, hbits, _⟩ := independentBitClassification
  obtain ⟨hcenter, hmenu, hback, hcom, hoption, hmedia, hnav, hmap⟩ := hbits p (encodeWord c b)
  obtain ⟨_, hnibbles, _⟩ := sharedNibbleClassification
  obtain ⟨hleft, hup, hright, hdown⟩ := hnibbles p (encodeWord c b)
  rw [frameDirnib_encodeWord] at hleft hup hright hdown
  rw [hcenter, hmenu, hback, hcom, hoption, hmedia, hnav, hmap, h3, h4, h5, h6, h7]
  exact ⟨rfl, hleft, hup, hright, hdown, rfl, rfl, rfl, rfl, rfl, rfl, rfl⟩

/-- Settles O19, by the test of the counter. -/
theorem resyncStepWritesTheInitialValues : Obligations.ResyncStepWritesTheInitialValues :=
  fun _ S => ⟨fun h => resyncStage_of_zero h S, fun h => resyncStage_of_ne h S⟩

theorem frameCounter_ne_zero_of_stale {F : Frame} {S : Arch} (h : accepts F S = false) :
    frameCounter F ≠ 0#8 := fun hzero => by
  simp [accepts_of_zero hzero] at h

/-- Settles O20, by the verdict: a stale frame has not resynced either. -/
theorem guardWritesTheCounterOfAcceptedFramesOnly :
    Obligations.GuardWritesTheCounterOfAcceptedFramesOnly := by
  refine fun F S => ⟨guardStage_of_accepts, fun hstale => ?_⟩
  have hguard : guardStage F S = S := guardStage_of_stale hstale
  have hresync : resyncStage F S = S := resyncStage_of_ne (frameCounter_ne_zero_of_stale hstale) S
  exact ⟨hguard.trans hresync.symm, hguard⟩

theorem resyncStage_reset_arch (F : Frame) : resyncStage F State.reset.arch = initialArch := by
  unfold resyncStage
  split <;> rfl

/-- The window after RESET: diff is one more than the counter, modulo 256. -/
theorem toNat_sub_initial_lastCounter (c : Byte) :
    (c - initialArch.lastCounter).toNat = (c.toNat + 1) % 256 := by
  have hlast : initialArch.lastCounter.toNat = 255 := rfl
  rw [BitVec.toNat_sub, hlast]
  omega

/-- Settles O21: the guard's verdict (O18) with the lastCounter of RESET. -/
theorem firstFrameWindowAfterReset : Obligations.FirstFrameWindowAfterReset := by
  intro F
  have hbyte : (frameCounter F).toNat < 256 := (frameCounter F).isLt
  rw [accepts_eq_true_iff, accepts_eq_false_iff, resyncStage_reset_arch, toNat_sub_initial_lastCounter]
  constructor <;> omega

/-- Every channel with every kind, in the order of the code table. -/
def channelKinds : List (Channel × Kind) :=
  channelOrder.flatMap fun ch =>
    [(ch, .enteredPrimary), (ch, .enteredExtended), (ch, .released)]

theorem mem_channelKinds (ch : Channel) (k : Kind) : (ch, k) ∈ channelKinds :=
  List.mem_flatMap.2 ⟨ch, mem_channelOrder ch, by cases k <;> simp⟩

theorem eventCodes_toList (p : Params) :
    p.eventCodes.toList = channelOrder.map fun ch => p.eventCodes[channelIndex ch] := by
  refine List.ext_getElem (by simp [channelOrder]) fun i hi _ => ?_
  have hi' : i < 12 := by simpa using hi
  rw [Vector.getElem_toList, List.getElem_map]
  interval_cases i <;> rfl

/-- The 36 codes are those of every channel with every kind. -/
theorem codeList_eq (p : Params) : p.codeList = channelKinds.map fun x => eventCode p x.1 x.2 := by
  rw [Params.codeList, eventCodes_toList, channelKinds, List.flatMap_map, List.map_flatMap]
  rfl

/-- R8 item 6 as propositions. -/
theorem codeList_legal (c : Configuration) :
    c.params.codeList.Nodup ∧ ∀ code ∈ c.params.codeList, 1 ≤ code.toNat ∧ code.toNat ≤ 36 := by
  have h := c.legal
  simp only [Params.legal, Params.codesLegal, Bool.and_eq_true, decide_eq_true_eq, List.all_eq_true] at h
  exact h.2

theorem eventCode_mem_codeList (p : Params) (ch : Channel) (k : Kind) : eventCode p ch k ∈ p.codeList := by
  rw [codeList_eq]
  exact List.mem_map.2 ⟨(ch, k), mem_channelKinds ch k, rfl⟩

theorem eventCode_range (c : Configuration) (ch : Channel) (k : Kind) :
    1 ≤ (eventCode c.params ch k).toNat ∧ (eventCode c.params ch k).toNat ≤ 36 :=
  (codeList_legal c).2 _ (eventCode_mem_codeList c.params ch k)

theorem eventCode_injective (c : Configuration) {ch ch' : Channel} {k k' : Kind}
    (h : (eventCode c.params ch' k').toNat = (eventCode c.params ch k).toNat) : ch' = ch ∧ k' = k := by
  obtain ⟨hnodup, _hrange⟩ := codeList_legal c
  rw [codeList_eq] at hnodup
  exact Prod.mk.inj (List.inj_on_of_nodup_map hnodup (mem_channelKinds ch' k') (mem_channelKinds ch k)
    (BitVec.eq_of_toNat_eq h))

/-- 36 different numbers of 1..36 are all of them. -/
theorem codeList_toNat_perm (c : Configuration) :
    (c.params.codeList.map BitVec.toNat).Perm (List.range' 1 36) := by
  obtain ⟨hnodup, hrange⟩ := codeList_legal c
  have hnodup' : (c.params.codeList.map BitVec.toNat).Nodup :=
    hnodup.map fun _ _ => BitVec.eq_of_toNat_eq
  have hsub : c.params.codeList.map BitVec.toNat ⊆ List.range' 1 36 := by
    intro n hn
    obtain ⟨code, hcode, rfl⟩ := List.mem_map.1 hn
    have := hrange code hcode
    rw [List.mem_range'_1]
    omega
  refine (hnodup'.subperm hsub).perm_of_length_le ?_
  rw [codeList_eq, List.length_range', List.length_map, List.length_map]
  rfl

/-- Settles O40: in range and injective by R8 item 6, and so onto, by counting. -/
theorem eventCodesAreABijection : Obligations.EventCodesAreABijection := by
  intro c
  refine ⟨eventCode_range c, fun n hlow hhigh => ?_⟩
  have hn : n ∈ c.params.codeList.map BitVec.toNat :=
    (codeList_toNat_perm c).mem_iff.2 (List.mem_range'_1.2 (by omega))
  rw [codeList_eq, List.map_map] at hn
  obtain ⟨⟨ch, k⟩, _hmem, hcode⟩ := List.mem_map.1 hn
  exact ⟨ch, k, hcode, fun ch' k' h' => eventCode_injective c (h'.trans hcode.symm)⟩

end Sys2Proof.Machine
end

section
/-! PROOFS. The results of the frame operations (R81, R120 to R123): what each answers where its sinks
are ready, and the frames it refuses. -/

namespace Sys2Proof.Machine

theorem accepts_encodeWord_iff {c : Byte} (hc : c ≠ 0#8) (b : Body) (S : Arch) :
    accepts (encodeWord c b) S = true ↔ (c - S.lastCounter).toNat ≤ 127 := by
  have hne : frameCounter (encodeWord c b) ≠ 0#8 := by rwa [frameCounter_encodeWord]
  rw [accepts_of_ne hne, decide_eq_true_iff, frameCounter_encodeWord]

theorem resyncStage_encodeWord {c : Byte} (hc : c ≠ 0#8) (b : Body) (S : Arch) :
    resyncStage (encodeWord c b) S = S :=
  resyncStage_of_ne (by rwa [frameCounter_encodeWord]) S

theorem resyncStage_encodeWord_zero (b : Body) (S : Arch) :
    resyncStage (encodeWord 0#8 b) S = initialArch :=
  resyncStage_of_zero (frameCounter_encodeWord 0#8 b) S

theorem accepts_encodeWord_zero (b : Body) (S : Arch) : accepts (encodeWord 0#8 b) S = true :=
  accepts_of_zero (frameCounter_encodeWord 0#8 b) S

/-- A frame that is taken completes where each of its events finds its own sink ready (R123). -/
theorem frameOperation_ready {F : Frame} {s : State} {S : Arch} {evs : List Event}
    (ht : s.takesFrame = true) (htrans : transaction s.config.params F s.arch = some (S, evs))
    (hready : ∀ e ∈ evs, sinkReady s.pins e = true) :
    frameOperation F s = .next (s.finished F S evs) := by
  have hall : sinksReady s.pins evs = true := by
    rw [sinksReady, List.all_eq_true.2 hready, Bool.or_true]
  simp [frameOperation_taken F ht, htrans, hall]

/-- An accepted frame of the transaction's domain completes where both sinks are ready. -/
theorem frameOperation_accepted {F : Frame} {s : State} (ht : s.takesFrame = true)
    (ho : s.sinksOpen = true) (ha : accepts F s.arch = true)
    (hl : ∀ ch, readField (resyncStage F s.arch) ch ≠ 0b11#2) :
    ∃ T, AfterFrame s.config.params F T
      ∧ frameOperation F s = .next (s.finished F T (frameEvents s.config.params F s.arch)) := by
  obtain ⟨T, hT, htrans⟩ := transaction_accepted s.config.params ha hl
  exact ⟨T, hT, by simp [frameOperation_open F ht ho, htrans]⟩

/-- A stale frame completes whatever the sinks and the latches are, and changes F only (R81). -/
theorem frameOperation_stale {F : Frame} {s : State} (ht : s.takesFrame = true)
    (hstale : accepts F s.arch = false) : frameOperation F s = .next { s with frame := F } := by
  have hphase : s.phase = .idle := ((takesFrame_iff s).1 ht).2.1
  rw [frameOperation_ready ht (transaction_of_stale _ hstale) (by simp)]
  simp [State.finished, State.capture, State.advance, hstale, hphase]

/-- What a frame operation with both sinks ready did, if it answers a next state. -/
theorem frameOperation_open_cases {F : Frame} {s t : State} (ht : s.takesFrame = true)
    (ho : s.sinksOpen = true) (h : frameOperation F s = .next t) :
    (accepts F s.arch = false ∧ t = { s with frame := F })
      ∨ (accepts F s.arch = true
        ∧ ∃ T, AfterFrame s.config.params F T
          ∧ t = s.finished F T (frameEvents s.config.params F s.arch)) := by
  cases ha : accepts F s.arch with
  | false =>
    rw [frameOperation_stale ht ha] at h
    cases h
    exact .inl ⟨rfl, rfl⟩
  | true =>
    rw [frameOperation_open F ht ho] at h
    cases htrans : transaction s.config.params F s.arch with
    | none => simp [htrans] at h
    | some r =>
      obtain ⟨T, hT, h'⟩ := transaction_accepted s.config.params ha (legal_of_transaction ha htrans)
      rw [h'] at h
      cases h
      exact .inr ⟨rfl, T, hT, rfl⟩

/-- Settles O12: the accepted frame completes, and with a counter that is not 0 nothing was resynced. -/
theorem acceptedDecodeResult : Obligations.AcceptedDecodeResult := by
  intro c b s hc ht ho hl hdiff
  have ha : accepts (encodeWord c b) s.arch = true := (accepts_encodeWord_iff hc b _).2 hdiff
  have hresync : resyncStage (encodeWord c b) s.arch = s.arch := resyncStage_encodeWord hc b _
  have hlegal : ∀ ch, readField (resyncStage (encodeWord c b) s.arch) ch ≠ 0b11#2 := by
    rw [hresync]
    exact (latchesLegal_iff _).1 hl
  obtain ⟨T, hT, hexec⟩ := frameOperation_accepted ht ho ha hlegal
  rw [frameEvents, hresync, framePos_encodeWord] at hexec
  refine ⟨_, hexec, ?_, ?_, hT.fields, ?_, rfl, if_pos ha, rfl, rfl, rfl, rfl, rfl⟩
  · exact hT.counter.trans (frameCounter_encodeWord c b)
  · exact hT.pos.trans (framePos_encodeWord c b)
  · rw [State.finished_delivered, List.append_assoc]

/-- Settles O13: a stale frame's transaction is S0-S4 as they were, and no event waits for a sink. -/
theorem staleDecodeChangesNothing : Obligations.StaleDecodeChangesNothing := by
  intro c b s hc ht hdiff
  refine frameOperation_stale ht ?_
  rw [← Bool.not_eq_true, accepts_encodeWord_iff hc]
  omega

/-- Against cleared latches the expected events are the Entered events (R110, R121). -/
theorem expectedSwitches_initialArch (p : Params) (F : Frame) :
    expectedSwitches p F initialArch = channelOrder.filterMap (enteredSwitch p F) := by
  refine List.filterMap_congr fun ch _ => ?_
  rw [expectedSwitch, enteredSwitch, readField_initialArch]
  cases classify p F ch <;> rfl

/-- Settles O14: a counter of 0 is always accepted, and the resync has cleared what it is decoded against. -/
theorem decodeResyncResult : Obligations.DecodeResyncResult := by
  intro b s ht ho
  have ha := accepts_encodeWord_zero b s.arch
  have hresync := resyncStage_encodeWord_zero b s.arch
  obtain ⟨T, hT, hexec⟩ :=
    frameOperation_accepted ht ho ha (hresync ▸ readField_initialArch_ne_eleven)
  rw [frameEvents, hresync, framePos_encodeWord, expectedSwitches_initialArch] at hexec
  refine ⟨_, hexec, ?_, ?_, hT.fields, ?_, rfl, if_pos ha, rfl, rfl, rfl, rfl, rfl⟩
  · exact hT.counter.trans (frameCounter_encodeWord 0#8 b)
  · exact hT.pos.trans (framePos_encodeWord 0#8 b)
  · rw [State.finished_delivered, List.append_assoc]
    rfl

/-- A frame that is taken is refused exactly outside the transaction's domain (R26, R104): one that
waits for a sink is not, since what it still has to do is a result. -/
theorem frameOperation_refused_iff {F : Frame} {s : State} (ht : s.takesFrame = true) :
    frameOperation F s = .refused .illegalLatch ↔ transaction s.config.params F s.arch = none := by
  obtain ⟨hw, _hp, hr⟩ := (takesFrame_iff s).1 ht
  rw [frameOperation_taken F ht]
  cases htrans : transaction s.config.params F s.arch with
  | none => simp
  | some r =>
    refine ⟨fun h => ?_, fun h => by cases h⟩
    simp only at h
    split at h
    · cases h
    · obtain ⟨_, hpending⟩ := settle_refused 14 (s.capture F) _ hw hr h
      rw [pending_capture, htrans] at hpending
      exact hpending

/-- Settles O15: the domain of the transaction, for a counter that is not 0. -/
theorem illegalLatchIsRefusedWhereRead : Obligations.IllegalLatchIsRefusedWhereRead := by
  intro c b s hc ht
  rw [exec_decode, frameOperation_refused_iff ht, transaction_eq_none_iff, accepts_encodeWord_iff hc,
    resyncStage_encodeWord hc]

/-- Settles O43, by the end of a completed operation. -/
theorem operationCompletesWhereItsEventsAreTaken :
    Obligations.OperationCompletesWhereItsEventsAreTaken := by
  intro F s S evs ht htrans hready
  rw [exec_decodeWord, frameOperation_ready ht htrans hready]
  exact ⟨_, rfl, rfl, rfl, rfl, rfl, rfl, rfl⟩

end Sys2Proof.Machine
end

section
/-! PROOFS. The switch events of one frame: per channel (R104, R105), in order (R49) and in number
(R108); and the same frame once more (R47, R109). -/

namespace Sys2Proof.Machine

theorem expectedSwitch_eq_some {p : Params} {F : Frame} {S : Arch} {ch : Channel} {e : Event}
    (h : expectedSwitch p F S ch = some e) : ∃ k, e = .switch ch k (eventCode p ch k) := by
  obtain ⟨k, _hk, rfl⟩ := Option.map_eq_some_iff.1 h
  exact ⟨k, rfl⟩

theorem isSome_expectedSwitch_iff (p : Params) (F : Frame) (S : Arch) (ch : Channel) :
    (expectedSwitch p F S ch).isSome = true
      ↔ ¬(readField S ch = 0b00#2 ↔ classify p F ch = .released) := by
  rw [expectedSwitch, Option.isSome_map, isSome_expectedKind_iff]

theorem filter_isSwitchOf_expectedSwitch (p : Params) (F : Frame) (S : Arch) (a ch : Channel) :
    (expectedSwitch p F S a).toList.filter (isSwitchOf ch)
      = if a = ch then (expectedSwitch p F S a).toList else [] := by
  cases he : expectedSwitch p F S a with
  | none => simp
  | some e =>
    obtain ⟨k, rfl⟩ := expectedSwitch_eq_some he
    by_cases hac : a = ch <;> simp [isSwitchOf, hac]

theorem filter_isSwitchOf_filterMap (p : Params) (F : Frame) (S : Arch) (ch : Channel) :
    ∀ chs : List Channel, chs.Nodup →
      (chs.filterMap (expectedSwitch p F S)).filter (isSwitchOf ch)
        = if ch ∈ chs then (expectedSwitch p F S ch).toList else [] := by
  intro chs
  induction chs with
  | nil => intro _; rfl
  | cons a rest ih =>
    intro hnodup
    obtain ⟨ha, hrest⟩ := List.nodup_cons.1 hnodup
    have hsplit : (a :: rest).filterMap (expectedSwitch p F S)
        = (expectedSwitch p F S a).toList ++ rest.filterMap (expectedSwitch p F S) := by
      rw [List.filterMap_cons]
      cases expectedSwitch p F S a <;> rfl
    rw [hsplit, List.filter_append, filter_isSwitchOf_expectedSwitch, ih hrest]
    by_cases hac : a = ch
    · subst hac
      simp [ha]
    · simp [hac, Ne.symm hac]

theorem filter_isSwitchOf_frameEvents (p : Params) (F : Frame) (S : Arch) (ch : Channel) :
    (frameEvents p F S).filter (isSwitchOf ch) = (expectedSwitch p F (resyncStage F S) ch).toList := by
  have hrotary : (expectedRotary (framePos F) (resyncStage F S).lastPos).filter (isSwitchOf ch) = [] := by
    unfold expectedRotary
    split <;> rfl
  rw [frameEvents, List.filter_append, hrotary, List.nil_append, expectedSwitches,
    filter_isSwitchOf_filterMap p F _ ch _ nodup_channelOrder, if_pos (mem_channelOrder ch)]

/-- Settles O34: of the channel's events only its own expected one is left, and that exists exactly where
the engagement changes. -/
theorem eventExactlyWhenEngagementChanges : Obligations.EventExactlyWhenEngagementChanges := by
  intro c b s t ch hc ht ho hdiff h
  have ha : accepts (encodeWord c b) s.arch = true := (accepts_encodeWord_iff hc b _).2 hdiff
  obtain ⟨hstale, _⟩ | ⟨_, T, _hT, rfl⟩ := frameOperation_open_cases ht ho h
  · simp [ha] at hstale
  · refine ⟨_, rfl, ?_⟩
    rw [filter_isSwitchOf_frameEvents, resyncStage_encodeWord hc]
    have hsome := isSome_expectedSwitch_iff s.config.params (encodeWord c b) s.arch ch
    cases he : expectedSwitch s.config.params (encodeWord c b) s.arch ch with
    | none =>
      rw [he] at hsome
      exact (if_pos (by simpa using hsome)).symm
    | some e =>
      rw [he] at hsome
      exact (if_neg (hsome.1 rfl)).symm

theorem pairwise_channelOrder : channelOrder.Pairwise fun a b => channelIndex a < channelIndex b := by
  decide

theorem pairwise_eventRank_expectedSwitches (p : Params) (F : Frame) (S : Arch) :
    (expectedSwitches p F S).Pairwise fun d e => eventRank d < eventRank e := by
  refine pairwise_channelOrder.filterMap _ fun a a' hlt d hd e he => ?_
  obtain ⟨k, rfl⟩ := expectedSwitch_eq_some hd
  obtain ⟨k', rfl⟩ := expectedSwitch_eq_some he
  exact Nat.succ_lt_succ hlt

theorem eventRank_pos_of_isSwitch {e : Event} (h : isSwitch e = true) : 0 < eventRank e := by
  cases e with
  | rotary d => cases h
  | switch ch k code => exact Nat.succ_pos _

/-- The rotary event has rank 0, and the switch events follow by channel (R49). -/
theorem pairwise_eventRank_frameEvents (p : Params) (F : Frame) (S : Arch) :
    (frameEvents p F S).Pairwise fun d e => eventRank d < eventRank e := by
  unfold frameEvents expectedRotary
  split
  · exact pairwise_eventRank_expectedSwitches p F _
  · exact List.pairwise_cons.2 ⟨fun e he => eventRank_pos_of_isSwitch (isSwitch_of_mem_expectedSwitches he),
      pairwise_eventRank_expectedSwitches p F _⟩

/-- What a frame operation with both sinks ready delivers: nothing, or the frame's events. -/
theorem delivered_of_frameOperation_open {F : Frame} {s t : State} (ht : s.takesFrame = true)
    (ho : s.sinksOpen = true) (h : frameOperation F s = .next t) :
    ∃ evs, t.delivered = s.delivered ++ evs ∧ (evs = [] ∨ evs = frameEvents s.config.params F s.arch) := by
  obtain ⟨_hstale, rfl⟩ | ⟨_ha, T, _hT, rfl⟩ := frameOperation_open_cases ht ho h
  · exact ⟨[], (List.append_nil _).symm, .inl rfl⟩
  · exact ⟨_, rfl, .inr rfl⟩

/-- Settles O35. -/
theorem eventsComeInTotalOrder : Obligations.EventsComeInTotalOrder := by
  intro F s t ht ho h
  rw [exec_decodeWord] at h
  obtain ⟨evs, hdelivered, rfl | rfl⟩ := delivered_of_frameOperation_open ht ho h
  · exact ⟨_, hdelivered, .nil⟩
  · exact ⟨_, hdelivered, List.pairwise_map.2 (pairwise_eventRank_frameEvents _ F s.arch)⟩

theorem countP_le_add_of_imp_or {α : Type} {P Q R : α → Bool}
    (h : ∀ x, P x = true → Q x = true ∨ R x = true) (l : List α) :
    l.countP P ≤ l.countP Q + l.countP R := by
  induction l with
  | nil => simp
  | cons x l ih =>
    simp only [List.countP_cons]
    by_cases hP : P x = true
    · rcases h x hP with hQ | hR
      · simp only [hP, hQ, if_true]
        omega
      · simp only [hP, hR, if_true]
        omega
    · simp only [hP, if_false, Bool.false_eq_true]
      omega

/-- The channels that are no directions. -/
def independentChannels : List Channel := [.center, .menu, .back, .com, .option, .media, .nav, .map]

theorem channelOrder_perm : channelOrder.Perm (directions ++ independentChannels) := by decide

/-- At most one direction is released by a frame, and at most one is entered (R103, R108). -/
theorem countP_directions_le_two (c : Configuration) (F : Frame) {S : Arch}
    (hS : ExclusiveFrom .center S) :
    (directions.countP fun ch => (expectedSwitch c.params F S ch).isSome) ≤ 2 := by
  have hbefore : directions.countP (engaged S) ≤ 1 := by
    rw [List.countP_eq_length_filter]
    exact of_decide_eq_true ((atMostOneEngaged_directions_iff S).2 hS)
  have hafter : (directions.countP fun ch => decide (classify c.params F ch ≠ .released)) ≤ 1 := by
    rw [List.countP_eq_length_filter, length_le_one_iff_of_nodup (nodup_directions.filter _)]
    simp only [List.mem_filter, decide_eq_true_eq]
    exact fun a ha b hb => atMostOneDirectionPerFrame c F a b ha.1 hb.1 ha.2 hb.2
  have hevent : ∀ ch, (expectedSwitch c.params F S ch).isSome = true →
      engaged S ch = true ∨ decide (classify c.params F ch ≠ .released) = true := by
    intro ch h
    rw [isSome_expectedSwitch_iff] at h
    rw [engaged_iff, decide_eq_true_eq]
    tauto
  have := countP_le_add_of_imp_or hevent directions
  omega

/-- Eight channels that are no directions, and two directions (R108). -/
theorem length_expectedSwitches_le (c : Configuration) (F : Frame) {S : Arch}
    (hS : ExclusiveFrom .center S) : (expectedSwitches c.params F S).length ≤ 10 := by
  have hdirections := countP_directions_le_two c F hS
  have hothers : (independentChannels.countP fun ch => (expectedSwitch c.params F S ch).isSome) ≤ 8 :=
    List.countP_le_length
  rw [expectedSwitches, List.length_filterMap_eq_countP, channelOrder_perm.countP_eq, List.countP_append]
  omega

theorem filter_isSwitch_frameEvents (p : Params) (F : Frame) (S : Arch) :
    (frameEvents p F S).filter isSwitch = expectedSwitches p F (resyncStage F S) := by
  rw [frameEvents, List.filter_append,
    List.filter_eq_nil_iff.2 fun e he => by simp [isSwitch_of_mem_expectedRotary he],
    List.filter_eq_self.2 fun e he => isSwitch_of_mem_expectedSwitches he, List.nil_append]

theorem length_expectedRotary_le (pos lastPos : Position) : (expectedRotary pos lastPos).length ≤ 1 := by
  unfold expectedRotary
  split <;> simp

/-- Settles O36: the invariant has at most one direction engaged, and so has what a resync leaves. -/
theorem reachableFrameDeliversAtMostElevenEvents :
    Obligations.ReachableFrameDeliversAtMostElevenEvents := by
  intro F s t hinv ht ho h
  rw [exec_decodeWord] at h
  obtain ⟨hw, hp, _hr⟩ := (takesFrame_iff s).1 ht
  have hwalk : WalkInv s := (inv_iff s).1 hinv hw
  have hexcl : ExclusiveFrom .center s.arch := hwalk.chan_center (by simp [hp]) ▸ hwalk.exclusive
  have hswitches := length_expectedSwitches_le s.config F (hexcl.of_resyncStage F)
  obtain ⟨evs, hdelivered, rfl | rfl⟩ := delivered_of_frameOperation_open ht ho h
  · exact ⟨_, hdelivered, by simp, by simp⟩
  · refine ⟨_, hdelivered, ?_, by rwa [filter_isSwitch_frameEvents]⟩
    have hrotary := length_expectedRotary_le (framePos F) (resyncStage F s.arch).lastPos
    rw [frameEvents, List.length_append]
    omega

/-- Settles O37: S0-S4 after an accepted frame are determined by the frame. -/
theorem latchBytesDependOnTheLastAcceptedFrameOnly :
    Obligations.LatchBytesDependOnTheLastAcceptedFrameOnly := by
  intro F s₁ s₂ t₁ t₂ hconfig ht₁ ht₂ ho₁ ho₂ ha₁ ha₂ h₁ h₂
  rw [exec_decodeWord] at h₁ h₂
  obtain ⟨hstale, _⟩ | ⟨_, T₁, hT₁, rfl⟩ := frameOperation_open_cases ht₁ ho₁ h₁
  · simp [ha₁] at hstale
  obtain ⟨hstale, _⟩ | ⟨_, T₂, hT₂, rfl⟩ := frameOperation_open_cases ht₂ ho₂ h₂
  · simp [ha₂] at hstale
  obtain rfl : T₁ = T₂ := hT₁.unique (hconfig ▸ hT₂)
  exact ⟨rfl, rfl, rfl⟩

theorem takesFrame_finished {s : State} (ht : s.takesFrame = true) (F : Frame) (S : Arch)
    (evs : List Event) : (s.finished F S evs).takesFrame = true := by
  obtain ⟨hw, _hp, hr⟩ := (takesFrame_iff s).1 ht
  exact (takesFrame_iff _).2 ⟨hw, rfl, hr⟩

@[simp] theorem sinksOpen_finished (s : State) (F : Frame) (S : Arch) (evs : List Event) :
    (s.finished F S evs).sinksOpen = s.sinksOpen := rfl

/-- Against its own classifications a frame has no event (R109). -/
theorem frameEvents_of_afterFrame {p : Params} {F : Frame} {T : Arch} (h : AfterFrame p F T)
    (hc : frameCounter F ≠ 0#8) : frameEvents p F T = [] := by
  have hswitches : expectedSwitches p F T = [] := List.filterMap_eq_nil_iff.2 fun ch _ => by
    rw [← Option.not_isSome_iff_eq_none, isSome_expectedSwitch_iff, h.fields, classCode_eq_zero]
    exact not_not.2 Iff.rfl
  rw [frameEvents, resyncStage_of_ne hc, hswitches, expectedRotary, if_pos h.pos.symm, List.append_nil]

/-- An operation that finishes twice with the same frame and no further event is finished already. -/
theorem finished_finished {s : State} {F : Frame} {T : Arch} {evs : List Event}
    (ha : accepts F s.arch = true) (ha' : accepts F T = true) :
    (s.finished F T evs).finished F T [] = s.finished F T evs := by
  simp [State.finished, State.capture, State.advance, ha, ha']

/-- Settles O38: the diff is 0, no event is left, and S0-S4 are what the frame determines. -/
theorem repeatedFrameIsIdempotent : Obligations.RepeatedFrameIsIdempotent := by
  intro c b s t hc ht ho hdiff h
  have ha : accepts (encodeWord c b) s.arch = true := (accepts_encodeWord_iff hc b _).2 hdiff
  have hcounter : frameCounter (encodeWord c b) = c := frameCounter_encodeWord c b
  obtain ⟨hstale, _⟩ | ⟨_, T, hT, rfl⟩ := frameOperation_open_cases ht ho h
  · simp [ha] at hstale
  have ha' : accepts (encodeWord c b) T = true := by
    rw [accepts_encodeWord_iff hc, hT.counter, hcounter, BitVec.sub_self]
    decide
  refine ⟨ha', ?_⟩
  obtain ⟨T', hT', hexec⟩ := frameOperation_accepted (takesFrame_finished ht _ _ _) ho ha'
    (resyncStage_encodeWord hc b T ▸ hT.legal)
  obtain rfl : T' = T := hT'.unique hT
  have hquiet : frameEvents s.config.params (encodeWord c b) T' = [] :=
    frameEvents_of_afterFrame hT (by rwa [hcounter])
  rw [exec_decode, hexec]
  simp only [State.finished_config, State.finished_arch, hquiet, finished_finished ha ha']

/-- The events of a resync do not depend on the state before it (R121). -/
theorem frameEvents_resync (p : Params) (b : Body) (S T : Arch) :
    frameEvents p (encodeWord 0#8 b) S = frameEvents p (encodeWord 0#8 b) T := by
  rw [frameEvents, frameEvents, resyncStage_encodeWord_zero, resyncStage_encodeWord_zero]

/-- Settles O39: a resync is accepted in every state, with the same events and the same S0-S4. -/
theorem repeatedResyncReportsAgain : Obligations.RepeatedResyncReportsAgain := by
  intro b s t ht ho h
  obtain ⟨hstale, _⟩ | ⟨_, T, hT, rfl⟩ := frameOperation_open_cases ht ho h
  · simp [accepts_encodeWord_zero] at hstale
  obtain ⟨T', hT', hexec⟩ := frameOperation_accepted
    (takesFrame_finished ht (encodeWord 0#8 b) T (frameEvents s.config.params (encodeWord 0#8 b) s.arch))
    ho (accepts_encodeWord_zero b T)
    (resyncStage_encodeWord_zero b T ▸ readField_initialArch_ne_eleven)
  refine ⟨_, _, rfl, hexec, ?_, hT'.unique hT⟩
  rw [State.finished_delivered, State.finished_config, State.finished_arch, frameEvents_resync _ b T s.arch]

end Sys2Proof.Machine
end

section
/-! PROOFS. Runs of frame operations: the rule for a property every operation keeps, stale frames that
can be left out (R27, R161), the cycle of counters (R85) and the sum of the deltas (R91, R95). -/

namespace Sys2Proof.Machine

/-- The core takes a frame, and both sinks are ready. -/
def State.ready (s : State) : Prop := s.takesFrame = true ∧ s.sinksOpen = true

theorem runFrames_cons (F : Frame) (Fs : List Frame) {s u : State} (h : frameOperation F s = .next u) :
    runFrames (F :: Fs) s = runFrames Fs u := by
  simp [runFrames, exec_decodeWord, h]

theorem runFrames_cons_next {F : Frame} {Fs : List Frame} {s t : State}
    (h : runFrames (F :: Fs) s = .next t) :
    ∃ u, frameOperation F s = .next u ∧ runFrames Fs u = .next t := by
  cases hF : frameOperation F s with
  | next u => exact ⟨u, rfl, (runFrames_cons F Fs hF).symm.trans h⟩
  | fault r => cases r
  | refused r => simp [runFrames, exec_decodeWord, hF] at h

theorem runFrames_append (Gs : List Frame) :
    ∀ (Fs : List Frame) {s u : State}, runFrames Fs s = .next u →
      runFrames (Fs ++ Gs) s = runFrames Gs u := by
  intro Fs
  induction Fs with
  | nil =>
    intro s u h
    cases h
    rfl
  | cons F Fs ih =>
    intro s u h
    obtain ⟨v, hF, hrest⟩ := runFrames_cons_next h
    rw [List.cons_append, runFrames_cons F _ hF]
    exact ih hrest

theorem ready_of_frameOperation {F : Frame} {s t : State} (hs : s.ready)
    (h : frameOperation F s = .next t) : t.ready := by
  obtain ⟨ht, ho⟩ := hs
  obtain ⟨_, rfl⟩ | ⟨_, T, _, rfl⟩ := frameOperation_open_cases ht ho h
  · exact ⟨ht, ho⟩
  · exact ⟨takesFrame_finished ht F T _, ho⟩

theorem ready_of_runFrames :
    ∀ (Fs : List Frame) {s t : State}, s.ready → runFrames Fs s = .next t → t.ready := by
  intro Fs
  induction Fs with
  | nil =>
    intro s t hs h
    cases h
    exact hs
  | cons F Fs ih =>
    intro s t hs h
    obtain ⟨u, hF, hrest⟩ := runFrames_cons_next h
    exact ih (ready_of_frameOperation hs hF) hrest

/-- The next handshake overwrites F, so what F held does not matter to it (R46). -/
theorem frameOperation_withFrame {s : State} (ht : s.takesFrame = true) (F G : Frame) :
    frameOperation F { s with frame := G } = frameOperation F s := by
  rw [frameOperation_taken F ht, frameOperation_taken F (s := { s with frame := G }) ht]
  rfl

/-- Settles O22: the stale frame changes F only, and the frame after it, if there is one, writes F anew. -/
theorem staleFramesCanBeLeftOut : Obligations.StaleFramesCanBeLeftOut := by
  intro before after F s u t ht ho hbefore hstale hrun
  obtain ⟨hu, _⟩ : u.ready := ready_of_runFrames before ⟨ht, ho⟩ hbefore
  rw [runFrames_append _ before hbefore, runFrames_cons F after (frameOperation_stale hu hstale)] at hrun
  rw [runFrames_append _ before hbefore]
  cases after with
  | nil =>
    cases hrun
    exact ⟨u, rfl, rfl, rfl⟩
  | cons G rest =>
    obtain ⟨v, hG, hrest⟩ := runFrames_cons_next hrun
    rw [frameOperation_withFrame hu] at hG
    exact ⟨t, (runFrames_cons G rest hG).trans hrest, rfl, rfl⟩

/-- The frames of the counter cycle from counter `m` on (R85). -/
def cycleFrames (m : Nat) (bodies : List Body) : List Frame :=
  bodies.mapIdx fun n b => encodeWord (BitVec.ofNat 8 (m + n)) b

theorem cycleFrames_cons (m : Nat) (b : Body) (bodies : List Body) :
    cycleFrames m (b :: bodies) = encodeWord (BitVec.ofNat 8 m) b :: cycleFrames (m + 1) bodies := by
  simp [cycleFrames, List.mapIdx_cons, Nat.add_right_comm, Nat.add_assoc]

/-- The core is ready for counter `m` of the cycle: the counter is 0, or it is the next one and the
latches are legal. -/
def ReadyForCounter (m : Nat) (s : State) : Prop :=
  s.ready ∧ (BitVec.ofNat 8 m = 0#8
    ∨ BitVec.ofNat 8 m = s.arch.lastCounter + 1#8 ∧ ∀ ch, readField s.arch ch ≠ 0b11#2)

/-- Such a frame is accepted and completes, and the core is ready for the next counter. -/
theorem ReadyForCounter.accepted_next {m : Nat} {s : State} (h : ReadyForCounter m s) (b : Body) :
    accepts (encodeWord (BitVec.ofNat 8 m) b) s.arch = true
      ∧ ∃ t, frameOperation (encodeWord (BitVec.ofNat 8 m) b) s = .next t ∧ ReadyForCounter (m + 1) t := by
  obtain ⟨⟨ht, ho⟩, hcounter⟩ := h
  have haccept : accepts (encodeWord (BitVec.ofNat 8 m) b) s.arch = true
      ∧ ∀ ch, readField (resyncStage (encodeWord (BitVec.ofNat 8 m) b) s.arch) ch ≠ 0b11#2 := by
    by_cases hzero : BitVec.ofNat 8 m = 0#8
    · rw [hzero, resyncStage_encodeWord_zero]
      exact ⟨accepts_encodeWord_zero b _, readField_initialArch_ne_eleven⟩
    · obtain ⟨hnext, hlegal⟩ := hcounter.resolve_left hzero
      rw [accepts_encodeWord_iff hzero, resyncStage_encodeWord hzero, hnext]
      exact ⟨by simp, hlegal⟩
  obtain ⟨ha, hl⟩ := haccept
  obtain ⟨T, hT, hexec⟩ := frameOperation_accepted ht ho ha hl
  refine ⟨ha, _, hexec, ready_of_frameOperation ⟨ht, ho⟩ hexec, .inr ⟨?_, hT.legal⟩⟩
  rw [State.finished_arch, hT.counter, frameCounter_encodeWord, BitVec.ofNat_add]

theorem ReadyForCounter.exists_run :
    ∀ (bodies : List Body) {m : Nat} {s : State}, ReadyForCounter m s →
      ∃ t, runFrames (cycleFrames m bodies) s = .next t ∧ ReadyForCounter (m + bodies.length) t := by
  intro bodies
  induction bodies with
  | nil => exact fun {m s} hs => ⟨s, rfl, hs⟩
  | cons b bodies ih =>
    intro m s hs
    obtain ⟨_ha, u, hu, hnext⟩ := hs.accepted_next b
    obtain ⟨t, hrun, hend⟩ := ih hnext
    rw [cycleFrames_cons, runFrames_cons _ _ hu, List.length_cons, Nat.add_comm bodies.length,
      ← Nat.add_assoc]
    exact ⟨t, hrun, hend⟩

/-- Settles O23: before each frame of the cycle the core is ready for its counter. -/
theorem wholeCounterCycleIsAccepted : Obligations.WholeCounterCycleIsAccepted := by
  intro bodies s _hlength ht ho frames
  have hframes : frames = cycleFrames 0 bodies := by
    simp [frames, cycleFrames]
  have hstart : ReadyForCounter 0 s := ⟨⟨ht, ho⟩, .inl rfl⟩
  rw [hframes]
  refine ⟨?_, fun n hn t hrun => ?_⟩
  · obtain ⟨t, hrun, _⟩ := hstart.exists_run bodies
    exact ⟨t, hrun⟩
  · have hn' : n < bodies.length := by simpa [cycleFrames] using hn
    have htake : (cycleFrames 0 bodies).take n = cycleFrames 0 (bodies.take n) :=
      List.ext_getElem (by simp [cycleFrames]) fun i _ _ => by simp [cycleFrames]
    have hframe : (cycleFrames 0 bodies)[n] = encodeWord (BitVec.ofNat 8 n) bodies[n] := by
      simp [cycleFrames]
    obtain ⟨t', hrun', hready⟩ := hstart.exists_run (bodies.take n)
    rw [htake, hrun'] at hrun
    cases hrun
    rw [Nat.zero_add, List.length_take_of_le hn'.le] at hready
    rw [hframe]
    exact (hready.accepted_next bodies[n]).1

/-- The s16 value of a 16-bit difference is the difference modulo 65536 (R10, R91). -/
theorem dvd_toNat_sub_toNat_sub_toInt (a b : Position) :
    (65536 : Int) ∣ a.toNat - b.toNat - (a - b).toInt := by
  have hsub : (a - b).toNat = (65536 - b.toNat + a.toNat) % 65536 := BitVec.toNat_sub a b
  have ha : a.toNat < 65536 := a.isLt
  have hb : b.toNat < 65536 := b.isLt
  rw [BitVec.toInt_eq_toNat_cond]
  split <;> omega

/-- Settles O24: a difference of 16-bit words is 0 only between equal words. -/
theorem changedPositionGivesOneDelta : Obligations.ChangedPositionGivesOneDelta := by
  intro F S hpos
  have hchanged : posChanged (framePos F) S.lastPos = true := (posChanged_iff _ _).2 hpos
  have hne : (framePos F - S.lastPos).toInt ≠ 0 := fun h0 =>
    hpos (sub_eq_zero.1 (BitVec.eq_of_toInt_eq h0))
  have hlow : -32768 ≤ (framePos F - S.lastPos).toInt := BitVec.le_toInt _
  have hhigh : (framePos F - S.lastPos).toInt < 32768 := BitVec.toInt_lt
  exact ⟨_, if_pos hchanged, rotaryStage_eq F S, hne, hlow, by omega, dvd_toNat_sub_toNat_sub_toInt _ _⟩

theorem sum_eventDelta_expectedSwitches (p : Params) (F : Frame) (S : Arch) :
    ((expectedSwitches p F S).map eventDelta).sum = 0#16 := by
  refine List.sum_eq_zero fun d hd => ?_
  obtain ⟨e, he, rfl⟩ := List.mem_map.1 hd
  cases e with
  | rotary d => cases isSwitch_of_mem_expectedSwitches he
  | switch ch k code => rfl

theorem sum_eventDelta_expectedRotary (pos lastPos : Position) :
    ((expectedRotary pos lastPos).map eventDelta).sum = pos - lastPos := by
  unfold expectedRotary
  split
  · next h => simp [h]
  · simp [eventDelta]

theorem sum_eventDelta_frameEvents {p : Params} {F : Frame} (hc : frameCounter F ≠ 0#8) (S : Arch) :
    ((frameEvents p F S).map eventDelta).sum = framePos F - S.lastPos := by
  rw [frameEvents, resyncStage_of_ne hc, List.map_append, List.sum_append,
    sum_eventDelta_expectedSwitches, sum_eventDelta_expectedRotary]
  exact add_zero _

/-- The deltas of one operation without a resync sum to what lastPos moves by. -/
theorem frameOperation_deltas {F : Frame} {s t : State} (hs : s.ready) (hc : frameCounter F ≠ 0#8)
    (h : frameOperation F s = .next t) :
    ∃ evs, t.delivered = s.delivered ++ evs
      ∧ (evs.map eventDelta).sum = t.arch.lastPos - s.arch.lastPos := by
  obtain ⟨ht, ho⟩ := hs
  obtain ⟨_, rfl⟩ | ⟨_, T, hT, rfl⟩ := frameOperation_open_cases ht ho h
  · exact ⟨[], by simp, by simp⟩
  · exact ⟨_, rfl, by rw [sum_eventDelta_frameEvents hc, State.finished_arch, hT.pos]⟩

/-- Settles O27, by induction on the frames: the moves of lastPos add up. -/
theorem deltasSumToThePositionDifference : Obligations.DeltasSumToThePositionDifference := by
  intro frames
  induction frames with
  | nil =>
    intro s t _ _ _ h
    cases h
    exact ⟨[], by simp, by simp⟩
  | cons F Fs ih =>
    intro s t hcounters ht ho h
    obtain ⟨u, hF, hrest⟩ := runFrames_cons_next h
    obtain ⟨ds, hds, hsum⟩ := frameOperation_deltas ⟨ht, ho⟩ (hcounters F List.mem_cons_self) hF
    obtain ⟨hut, huo⟩ := ready_of_frameOperation ⟨ht, ho⟩ hF
    obtain ⟨es, hes, hsum'⟩ := ih u t (fun G hG => hcounters G (List.mem_cons_of_mem F hG)) hut huo hrest
    refine ⟨ds ++ es, by rw [hes, hds, List.append_assoc], ?_⟩
    rw [List.map_append, List.sum_append, hsum, hsum', add_comm, sub_add_sub_cancel]

end Sys2Proof.Machine
end

section
/-! PROOFS. Waiting for a sink (R123, R141, R172): where a step ends, what a wait holds, and the two
waits of a frame operation. -/

namespace Sys2Proof.Machine

/-- Settles O44, by what a step can be: all but the run of edges end in IDLE. -/
theorem everyStepEndsInAWait : Obligations.EveryStepEndsInAWait := by
  intro s t hw hstep
  obtain ⟨_, rfl⟩ | ⟨hw', _⟩ | ⟨_, S, evs, _, rfl⟩ | ⟨_, hr, u, hu, hsettle⟩ := step_cases hstep
  · exact .inl rfl
  · simp [hw] at hw'
  · exact .inl rfl
  · have hstart : u.wasReset = true ∧ u.pins.rst = false := by
      obtain rfl | ⟨_, rfl⟩ := hu <;> exact ⟨hw, hr⟩
    exact (settle_spec 14 u t hstart.1 hstart.2 (remaining_le u) hsettle).1

/-- Settles O58, by what a step can be. -/
theorem stepKeepsInputsAndDeliveries : Obligations.StepKeepsInputsAndDeliveries := by
  intro s t hstep
  obtain ⟨_, rfl⟩ | ⟨_, rfl⟩ | ⟨_, S, evs, _, rfl⟩ | ⟨hw, hr, u, hu, hsettle⟩ := step_cases hstep
  · exact ⟨rfl, rfl, ⟨[], List.append_nil _⟩, fun _ => rfl⟩
  · exact ⟨rfl, rfl, ⟨[], List.append_nil _⟩, id⟩
  · exact ⟨rfl, rfl, ⟨evs, rfl⟩, id⟩
  · have hstart : u.wasReset = true ∧ u.pins = s.pins ∧ u.config = s.config
        ∧ u.delivered = s.delivered := by
      obtain rfl | ⟨_, rfl⟩ := hu <;> exact ⟨hw, rfl, rfl, rfl⟩
    obtain ⟨hw', hpins, hconfig, hdelivered⟩ := hstart
    obtain ⟨_, _, kpins, kconfig, kreset, _, evs, kdelivered, _⟩ :=
      settle_spec 14 u t hw' (hpins ▸ hr) (remaining_le u) hsettle
    refine ⟨kpins.trans hpins, kconfig.trans hconfig, ?_, fun _ => kreset.trans hw'⟩
    rw [kdelivered, hdelivered]
    exact ⟨evs, rfl⟩

theorem presented_idle {s : State} (hp : s.phase = .idle) : presented s = some none := by
  simp [presented, hp]

theorem presented_guard {s : State} (hp : s.phase = .guard) : presented s = some none := by
  simp [presented, hp]

theorem presented_of_rst {s : State} (hr : s.pins.rst = true) : presented s = some none := if_pos hr

/-- What is presented does not depend on the readies or on the frame port (R142). -/
theorem presented_withPins {s : State} {p : Pins} (hs : s.pins.rst = false) (hp : p.rst = false) :
    presented (s.withPins p) = presented s := by
  simp only [presented, State.withPins_pins, State.withPins_phase, State.withPins_frame,
    State.withPins_arch, State.withPins_chan, State.withPins_config, hs, hp]
  rfl

theorem stalled_of_sinkReady_false {s : State} {e : Event} (h : presented s = some (some e))
    (hready : sinkReady s.pins e = false) : s.stalled = true := by
  simp [stalled_of_presented h, transfers, hready]

theorem stalled_of_presented_none {s : State} (h : presented s = some none) : s.stalled = false := by
  simp [stalled_of_presented h, transfers]

/-- Settles O52: the edge of a stalled core changes nothing. -/
theorem presentedEventStaysUntilTaken : Obligations.PresentedEventStaysUntilTaken := by
  intro s e p hw hr hpresented hready hp
  have hstall : s.stalled = true := stalled_of_sinkReady_false hpresented hready
  exact ⟨s, edge_of_stalled hw hr hstall, (presented_withPins hr hp).trans hpresented⟩

/-- Settles O45, by induction on the edges: each is the edge of a stalled core. -/
theorem neverReadySinkHangsTheCore : Obligations.NeverReadySinkHangsTheCore := by
  intro s t e ps
  induction ps generalizing s with
  | nil =>
    intro _ _ _ _ h
    cases h
    exact ⟨rfl, rfl, rfl, rfl, rfl⟩
  | cons p ps ih =>
    intro hw hr hpresented hpins h
    obtain ⟨hp, hready⟩ := hpins p List.mem_cons_self
    have hpresented' : presented (s.withPins p) = some (some e) :=
      (presented_withPins hr hp).trans hpresented
    have hstall : (s.withPins p).stalled = true := stalled_of_sinkReady_false hpresented' hready
    simp only [runEdges, edge_of_stalled (s := s.withPins p) hw hp hstall] at h
    exact ih (s.withPins p) hw hp hpresented' (fun q hq => hpins q (List.mem_cons_of_mem p hq)) h

theorem settle_waiting {s : State} (h : s.phase = .idle ∨ s.stalled = true) (n : Nat) :
    settle n s = .next s := by
  cases n with
  | zero => rfl
  | succ n => exact if_pos (by simpa using h)

theorem settle_succ {s u : State} (hp : s.phase ≠ .idle) (hs : s.stalled = false)
    (h : edge s = .next u) (n : Nat) : settle (n + 1) s = settle n u := by
  simp [settle, hp, hs, h]

/-- A frame whose rest has a result is not refused on the way. -/
theorem exists_settle_next {s : State} {r : Arch × List Event} (hw : s.wasReset = true)
    (hr : s.pins.rst = false) (hpending : pending s = some r) (n : Nat) :
    ∃ t, settle n s = .next t := by
  cases h : settle n s with
  | next t => exact ⟨t, rfl⟩
  | fault f => cases f
  | refused f =>
    obtain ⟨_, hnone⟩ := settle_refused n s f hw hr h
    rw [hnone] at hpending
    cases hpending

/-- An accepted frame with an event whose sink is not ready is run edge by edge. -/
theorem frameOperation_held {F : Frame} {s : State} (ht : s.takesFrame = true)
    (ha : accepts F s.arch = true) (hl : (resyncStage F s.arch).latchesLegal = true)
    (hheld : sinksReady s.pins (frameEvents s.config.params F s.arch) = false) :
    frameOperation F s = settle 14 (s.capture F) := by
  obtain ⟨T, _, htrans⟩ := transaction_accepted s.config.params ha ((latchesLegal_iff _).1 hl)
  simp [frameOperation_taken F ht, htrans, hheld]

/-- The state in ROT after the accepting guard's edge (R145). -/
def State.inRot (s : State) (F : Frame) : State :=
  { s with arch := { resyncStage F s.arch with lastCounter := frameCounter F }, phase := .rot, frame := F }

theorem guardEdge_capture {F : Frame} {s : State} (ha : accepts F s.arch = true) :
    guardEdge (s.capture F) = s.inRot F := by
  simp [guardEdge, State.advance, State.capture, State.inRot, ha, guardStage_of_accepts ha]

theorem settle_capture {F : Frame} {s : State} (ht : s.takesFrame = true)
    (ha : accepts F s.arch = true) (n : Nat) :
    settle (n + 1) (s.capture F) = settle n (s.inRot F) := by
  obtain ⟨hw, _hp, hr⟩ := (takesFrame_iff s).1 ht
  have hedge : edge (s.capture F) = .next (s.inRot F) := by
    rw [edge_guard (s := s.capture F) hw hr rfl, guardEdge_capture ha]
  exact settle_succ (by simp) (stalled_of_presented_none (presented_guard rfl)) hedge n

theorem rotaryEvent_eq (F : Frame) (S : Arch) :
    rotaryEvent F S = if framePos F = S.lastPos then none else some (.rotary (framePos F - S.lastPos)) := by
  unfold rotaryEvent
  by_cases h : framePos F = S.lastPos <;> simp [h, posChanged]

/-- A core in ROT stalls exactly on a changed position whose sink is not ready. -/
theorem stalled_rot_iff {s : State} (hr : s.pins.rst = false) (hp : s.phase = .rot) :
    s.stalled = true ↔ framePos s.frame ≠ s.arch.lastPos ∧ s.pins.rotReady = false := by
  rw [stalled_of_presented (presented_rot hr hp), rotaryEvent_eq]
  by_cases h : framePos s.frame = s.arch.lastPos <;> simp [h, transfers, sinkReady]

/-- Settles O41: the guard's edge, and then a stall in ROT. -/
theorem unreadyRotarySinkHoldsTheFrame : Obligations.UnreadyRotarySinkHoldsTheFrame := by
  intro F s ht ha hl hpos hrot
  obtain ⟨_hw, _hp, hr⟩ := (takesFrame_iff s).1 ht
  have hheld : sinksReady s.pins (frameEvents s.config.params F s.arch) = false := by
    simp [sinksReady, frameEvents, expectedRotary, hpos, sinkReady, hrot]
  have hstall : (s.inRot F).stalled = true := (stalled_rot_iff (s := s.inRot F) hr rfl).2 ⟨hpos, hrot⟩
  rw [exec_decodeWord, frameOperation_held ht ha hl hheld, settle_capture ht ha,
    settle_waiting (.inr hstall)]
  rfl

/-- The walk of the frame `F`, taken in the state `s`, has met no switch event so far: the passed
channels hold the frame's classification, the others what the resync step left. -/
structure SilentWalk (F : Frame) (s u : State) : Prop where
  phase : u.phase = .ch ∨ u.phase = .idle
  frame : u.frame = F
  pins : u.pins = s.pins
  config : u.config = s.config
  wasReset : u.wasReset = true
  delivered : u.delivered = s.delivered ++ expectedRotary (framePos F) (resyncStage F s.arch).lastPos
  counter : u.arch.lastCounter = frameCounter F
  pos : u.arch.lastPos = framePos F
  silent : ∀ ch, u.phase = .idle ∨ walked u.chan ch = true →
    expectedSwitch s.config.params F (resyncStage F s.arch) ch = none
  passed : ∀ ch, walked u.chan ch = true → readField u.arch ch = classCode (classify s.config.params F ch)
  unpassed : u.phase = .ch → ∀ ch, walked u.chan ch = false →
    readField u.arch ch = readField (resyncStage F s.arch) ch

/-- The event the walk comes to is the one of the latches before the frame. -/
theorem SilentWalk.expectedSwitch_chan {F : Frame} {s u : State} (h : SilentWalk F s u)
    (hp : u.phase = .ch) :
    expectedSwitch u.config.params u.frame u.arch u.chan
      = expectedSwitch s.config.params F (resyncStage F s.arch) u.chan := by
  rw [h.config, h.frame]
  exact expectedSwitch_congr (h.unpassed hp u.chan (decide_eq_false (lt_irrefl _)))

/-- With the switch sink closed a core in CH stalls exactly on an event. -/
theorem stalled_ch_iff {s : State} (hr : s.pins.rst = false) (hp : s.phase = .ch)
    (hsw : s.pins.swReady = false) :
    s.stalled = true ↔ readField s.arch s.chan ≠ 0b11#2
      ∧ expectedSwitch s.config.params s.frame s.arch s.chan ≠ none := by
  by_cases h3 : readField s.arch s.chan = 0b11#2
  · simp [State.stalled, presented_ch hr hp, h3]
  · rw [stalled_of_presented (by rw [presented_ch hr hp, if_neg h3])]
    cases he : expectedSwitch s.config.params s.frame s.arch s.chan with
    | none => simp [transfers]
    | some e =>
      obtain ⟨k, rfl⟩ := expectedSwitch_eq_some he
      simp [transfers, sinkReady, hsw, h3]

/-- An edge without a stall, the switch sink being closed, is one more channel without an event. -/
theorem SilentWalk.of_edge {F : Frame} {s u v : State} (h : SilentWalk F s u)
    (hr : s.pins.rst = false) (hsw : s.pins.swReady = false) (hidle : u.phase ≠ .idle)
    (hs : u.stalled = false) (he : edge u = .next v) : SilentWalk F s v := by
  have hp : u.phase = .ch := h.phase.resolve_right hidle
  have hr' : u.pins.rst = false := h.pins ▸ hr
  have hlegal : readField u.arch u.chan ≠ 0b11#2 := fun h3 => by
    simp [edge_ch h.wasReset hr' hp, h3] at he
  have hnone : expectedSwitch u.config.params u.frame u.arch u.chan = none := by
    by_contra hsome
    have hstall := (stalled_ch_iff hr' hp (h.pins ▸ hsw)).2 ⟨hlegal, hsome⟩
    simp [hs] at hstall
  have hsilent : ∀ ch, walked u.chan ch = true ∨ ch = u.chan →
      expectedSwitch s.config.params F (resyncStage F s.arch) ch = none := by
    rintro ch (hch | rfl)
    · exact h.silent ch (.inr hch)
    · rw [← h.expectedSwitch_chan hp, hnone]
  have hpassed : ∀ ch, walked u.chan ch = true ∨ ch = u.chan →
      readField (channelWrite u.config.params u.frame u.chan u.arch) ch
        = classCode (classify s.config.params F ch) := fun ch hch => by
    rw [h.config, h.frame]
    exact readField_channelWrite_of_passed h.passed hch
  obtain ⟨c, hn, rfl⟩ | ⟨hn, rfl⟩ := edge_ch_of_not_stalled h.wasReset hr' hp hs he
  · refine ⟨.inl rfl, h.frame, h.pins, h.config, h.wasReset, by simp [hnone, h.delivered],
      by simp [h.counter], by simp [h.pos], fun ch hch => ?_, fun ch hch => ?_, fun _ ch hch => ?_⟩
    · exact hsilent ch ((walked_next hn ch).1 (hch.resolve_left (by simp)))
    · exact hpassed ch ((walked_next hn ch).1 hch)
    · rw [State.advance_chan, ← Bool.not_eq_true, walked_next hn, not_or, Bool.not_eq_true] at hch
      obtain ⟨hwalked, hne⟩ := hch
      exact (readField_channelWrite_of_ne _ _ _ fun e => hne e.symm).trans (h.unpassed hp ch hwalked)
  · exact ⟨.inr rfl, h.frame, h.pins, h.config, h.wasReset, by simp [hnone, h.delivered],
      by simp [h.counter], by simp [h.pos], fun ch _ => hsilent ch (walked_last hn ch),
      fun ch hch => by simp at hch, fun hch => by simp at hch⟩

/-- The state in CH after ROT's edge (R145). -/
def State.inWalk (s : State) (F : Frame) : State :=
  (s.inRot F).advance (rotaryStage F (s.inRot F).arch) .ch .center
    (expectedRotary (framePos F) (resyncStage F s.arch).lastPos)

theorem silentWalk_inWalk {F : Frame} {s : State} (hw : s.wasReset = true) :
    SilentWalk F s (s.inWalk F) where
  phase := .inl rfl
  frame := rfl
  pins := rfl
  config := rfl
  wasReset := hw
  delivered := rfl
  counter := by rw [State.inWalk, State.advance_arch, rotaryStage_eq]; rfl
  pos := by rw [State.inWalk, State.advance_arch, rotaryStage_eq]
  silent ch hch := by simp [State.inWalk] at hch
  passed ch hch := by simp [State.inWalk] at hch
  unpassed _ ch _ := by
    rw [State.inWalk, State.advance_arch, readField_rotaryStage]
    cases ch <;> rfl

theorem settle_inRot {F : Frame} {s : State} (ht : s.takesFrame = true)
    (hrot : framePos F = (resyncStage F s.arch).lastPos ∨ s.pins.rotReady = true) (n : Nat) :
    settle (n + 1) (s.inRot F) = settle n (s.inWalk F) := by
  obtain ⟨hw, _hp, hr⟩ := (takesFrame_iff s).1 ht
  have hgo : (s.inRot F).stalled = false := by
    rw [← Bool.not_eq_true, stalled_rot_iff (s := s.inRot F) hr rfl]
    rintro ⟨hpos, hclosed⟩
    have hopen : s.pins.rotReady = true := hrot.resolve_left hpos
    exact Bool.false_ne_true (hclosed.symm.trans hopen)
  exact settle_succ (by simp [State.inRot]) hgo
    (edge_rot_of_not_stalled (s := s.inRot F) hw hr rfl hgo) n

theorem expectedSwitches_eq_nil {p : Params} {F : Frame} {S : Arch}
    (h : ∀ ch, expectedSwitch p F S ch = none) : expectedSwitches p F S = [] :=
  List.filterMap_eq_nil_iff.2 fun ch _ => h ch

theorem sinksReady_eq_false {p : Pins} {evs : List Event} {e : Event} (he : e ∈ evs)
    (hclosed : sinkReady p e = false) : sinksReady p evs = false := by
  rw [sinksReady, Bool.or_eq_false_iff]
  refine ⟨?_, List.all_eq_false.2 ⟨e, he, by simp [hclosed]⟩⟩
  cases e with
  | rotary d => rw [show p.rotReady = false from hclosed, Bool.false_and]
  | switch ch k code => rw [show p.swReady = false from hclosed, Bool.and_false]

/-- Settles O42: the walk goes on silently, and where it stops it stalls, since some channel has an event. -/
theorem unreadySwitchSinkHoldsAtTheFirstEvent : Obligations.UnreadySwitchSinkHoldsAtTheFirstEvent := by
  intro F s ht ha hl hrot hsw hsome
  obtain ⟨hw, _hp, hr⟩ := (takesFrame_iff s).1 ht
  obtain ⟨e, he⟩ := List.exists_mem_of_ne_nil _ hsome
  have hclosed : sinkReady s.pins e = false := by
    cases e with
    | rotary d => cases isSwitch_of_mem_expectedSwitches he
    | switch ch k code => exact hsw
  have hheld : sinksReady s.pins (frameEvents s.config.params F s.arch) = false :=
    sinksReady_eq_false (List.mem_append_right _ he) hclosed
  obtain ⟨T, _, htrans⟩ := transaction_accepted s.config.params ha ((latchesLegal_iff _).1 hl)
  obtain ⟨t, hsettle⟩ := exists_settle_next (s := s.capture F) hw hr htrans 14
  have hexec : exec (decodeWord F) s = .next t := by
    rw [exec_decodeWord, frameOperation_held ht ha hl hheld, hsettle]
  rw [settle_capture ht ha, settle_inRot ht hrot] at hsettle
  obtain ⟨hwait, _, _, _, kreset, kfree, _⟩ :=
    settle_spec 12 (s.inWalk F) t hw hr (Nat.le_refl 12) hsettle
  have hwalk : SilentWalk F s t := settle_keeps (P := SilentWalk F s)
    (fun u v hu hidle hs hedge => hu.of_edge hr hsw hidle hs hedge) 12 _ t (silentWalk_inWalk hw) hsettle
  have hch : t.phase = .ch := hwalk.phase.resolve_right fun hidle =>
    hsome (expectedSwitches_eq_nil fun ch => hwalk.silent ch (.inl hidle))
  have hstall : t.stalled = true := hwait.resolve_left (by simp [hch])
  have hevent := ((stalled_ch_iff (hwalk.pins ▸ hr) hch (hwalk.pins ▸ hsw)).1 hstall).2
  rw [hwalk.expectedSwitch_chan hch] at hevent
  refine ⟨t, hexec, hch, hstall, hevent,
    fun ch hlt => hwalk.silent ch (.inr ((walked_iff _ _).2 hlt)), fun ch => ?_, hwalk.delivered,
    hwalk.counter, hwalk.pos, hwalk.frame, hwalk.pins, hwalk.config, kreset, kfree⟩
  split
  · next hlt => exact hwalk.passed ch ((walked_iff _ _).2 hlt)
  · next hge => exact hwalk.unpassed hch ch (decide_eq_false hge)

end Sys2Proof.Machine
end

section
/-! PROOFS. The edges of one frame (R142, R147, R154): what each delivers, what is left after it, and
the refinement of the transaction by whole runs of edges. -/

namespace Sys2Proof.Machine

theorem taken_of_presented_none {s : State} (h : presented s = some none) : taken s = [] := by
  rw [taken_of_presented h]
  rfl

/-- Settles O53: `taken` is what the edge of a frame in progress delivers; with rst 1 and in IDLE nothing
is presented. -/
theorem edgeDeliversExactlyTheTakenEvent : Obligations.EdgeDeliversExactlyTheTakenEvent := by
  intro s t hw he
  change t.delivered = s.delivered ++ taken s
  cases hr : s.pins.rst with
  | true =>
    rw [edge_reset hr] at he
    cases he
    simp [taken_of_presented_none (presented_of_rst hr)]
  | false =>
    by_cases hp : s.phase = .idle
    · rw [edge_idle hw hr hp] at he
      cases he
      rw [taken_of_presented_none (presented_idle hp), List.append_nil]
      split <;> rfl
    · obtain ⟨_, _, _, _, _, hdelivered⟩ := edge_frame hw hr hp he
      exact hdelivered

theorem pending_of_idle {s : State} (hp : s.phase = .idle) : pending s = some (s.arch, []) := by
  simp [pending, hp]

/-- Taking the events already delivered off the front of a frame's result. -/
theorem pending_rest {o : Option (Arch × List Event)} {es evs : List Event} {S : Arch}
    (h : some (S, evs) = o.map fun r => (r.1, es ++ r.2)) :
    ∃ rest, o = some (S, rest) ∧ evs = es ++ rest := by
  obtain ⟨⟨S', rest⟩, ho, heq⟩ := Option.map_eq_some_iff.1 h.symm
  cases heq
  exact ⟨rest, ho, rfl⟩

theorem stalled_of_open {s : State} (ho : s.sinksOpen = true) : s.stalled = false := by
  simp only [State.sinksOpen, Bool.and_eq_true] at ho
  obtain ⟨hrot, hsw⟩ := ho
  unfold State.stalled
  cases presented s with
  | none => rfl
  | some ev =>
    match ev with
    | none => rfl
    | some (.rotary _) => simp [transfers, sinkReady, hrot]
    | some (.switch _ _ _) => simp [transfers, sinkReady, hsw]

/-- Settles O46: the wait has the rest of the frame before it, and with both sinks ready the next step
runs all of it. -/
theorem heldFrameIsFinishedLater : Obligations.HeldFrameIsFinishedLater := by
  intro F s t p ht hexec hwaits hr hrot hsw
  obtain ⟨hw, _hp, hr'⟩ := (takesFrame_iff s).1 ht
  have ho : (t.withPins p).sinksOpen = true := by simp [State.sinksOpen, hrot, hsw]
  rw [exec_decodeWord] at hexec
  obtain ⟨_, hnot | ⟨_, S, evs, htrans, hdone | hheld⟩⟩ := frameOperation_next hexec
  · simp [State.takesFrame, hnot.1] at ht
  · simp [hdone.2] at hwaits
  obtain ⟨_hsinks, hsettle⟩ := hheld
  obtain ⟨_, _, _, _, kreset, _, es, kdelivered, kpending⟩ :=
    settle_spec 14 (s.capture F) t hw hr' (remaining_le _) hsettle
  rw [pending_capture, htrans] at kpending
  obtain ⟨rest, hpending, rfl⟩ := pending_rest kpending
  have hwt : (t.withPins p).wasReset = true := kreset.trans hw
  obtain ⟨u, hu⟩ := exists_settle_next (s := t.withPins p) hwt hr hpending 14
  obtain ⟨hwait, _, lpins, _, _, _, fs, ldelivered, lpending⟩ :=
    settle_spec 14 (t.withPins p) u hwt hr (remaining_le _) hu
  have hidle : u.phase = .idle := hwait.resolve_right fun hstall => by
    have hopen : u.sinksOpen = true := by rw [State.sinksOpen, lpins]; exact ho
    simp [stalled_of_open hopen] at hstall
  rw [pending_withPins, hpending, pending_of_idle hidle] at lpending
  obtain ⟨_, hend, rfl⟩ := pending_rest lpending
  cases hend
  refine ⟨u, u.arch, es ++ (fs ++ []), ?_, htrans, rfl, ?_, hidle⟩
  · rw [step_continue (s := t.withPins p) hr (.inl hwaits), continueFrame, if_pos hwt, hu]
  · rw [ldelivered, State.withPins_delivered, kdelivered, State.capture_delivered, List.append_assoc,
      List.append_nil]

/-- One edge of a frame in progress, stalled or not: what it takes off the frame's result and off the
number of edges, a stalled cycle counting as one edge more (R147, R154). -/
theorem edge_accounts {s t : State} (hw : s.wasReset = true) (hr : s.pins.rst = false)
    (hp : s.phase ≠ .idle) (h : edge s = .next t) :
    t.wasReset = true ∧ t.delivered = s.delivered ++ taken s
      ∧ (pending s = (pending t).map fun r => (r.1, taken s ++ r.2))
      ∧ remaining s + (if s.stalled = true then 1 else 0) = remaining t + 1 := by
  obtain ⟨_, _, _, hreset, _, hdelivered⟩ := edge_frame hw hr hp h
  refine ⟨hreset.trans hw, hdelivered, ?_⟩
  cases hs : s.stalled with
  | true =>
    rw [edge_of_stalled hw hr hs] at h
    cases h
    rw [List.self_eq_append_right.1 hdelivered]
    exact ⟨by simp, rfl⟩
  | false =>
    obtain ⟨hremaining, hpending⟩ := edge_progress hw hr hp hs h
    exact ⟨hpending, hremaining⟩

theorem runToIdle_cons {p : Pins} {ps : List Pins} {s t : State} (h : runToIdle (p :: ps) s = some t) :
    s.phase ≠ .idle ∧ ∃ u, edge (s.withPins p) = .next u ∧ runToIdle ps u = some t := by
  simp only [runToIdle] at h
  split at h
  · cases h
  · next hp =>
    refine ⟨hp, ?_⟩
    cases he : edge (s.withPins p) with
    | next u => exact ⟨u, rfl, by simpa [he] using h⟩
    | fault r => cases r
    | refused r => simp [he] at h

/-- A run of edges back to IDLE, under any levels but rst: it ends in the frame's result, after the
edges that were left and one more for each stalled cycle. -/
theorem runToIdle_spec :
    ∀ (ps : List Pins) {s t : State}, s.wasReset = true → (∀ p ∈ ps, p.rst = false) →
      runToIdle ps s = some t →
      t.phase = .idle
        ∧ (∃ evs, t.delivered = s.delivered ++ evs ∧ pending s = some (t.arch, evs))
        ∧ ps.length = remaining s + stallCycles ps s := by
  intro ps
  induction ps with
  | nil =>
    intro s t _ _ h
    simp only [runToIdle] at h
    split at h
    · next hp =>
      cases h
      exact ⟨hp, ⟨[], (List.append_nil _).symm, pending_of_idle hp⟩, by
        simp [remaining_eq_zero.2 hp, stallCycles]⟩
    · cases h
  | cons p ps ih =>
    intro s t hw hps h
    obtain ⟨hp, u, he, hrest⟩ := runToIdle_cons h
    obtain ⟨hreset, hdelivered, hpending, hremaining⟩ :=
      edge_accounts (s := s.withPins p) hw (hps p List.mem_cons_self) hp he
    obtain ⟨hidle, ⟨evs, hevs, hresult⟩, hlength⟩ :=
      ih hreset (fun q hq => hps q (List.mem_cons_of_mem p hq)) hrest
    rw [remaining_withPins] at hremaining
    rw [pending_withPins, hresult] at hpending
    refine ⟨hidle, ⟨taken (s.withPins p) ++ evs, ?_, hpending⟩, ?_⟩
    · rw [hevs, hdelivered, State.withPins_delivered, List.append_assoc]
    · simp only [List.length_cons, stallCycles, he, hlength]
      omega

/-- Settles O47: at the handshake the whole transaction is still to come. -/
theorem realisationRefinesTheTransaction : Obligations.RealisationRefinesTheTransaction := by
  intro F s t ps ht hps h
  obtain ⟨hw, _, _⟩ := (takesFrame_iff s).1 ht
  obtain ⟨hidle, ⟨evs, hevs, hresult⟩, _⟩ := runToIdle_spec ps (s := s.capture F) hw hps h
  exact ⟨t.arch, evs, hresult, rfl, hevs, hidle⟩

/-- Settles O48: at the handshake 14 edges are left, or 1. -/
theorem frameTakesFourteenEdgesPlusStalls : Obligations.FrameTakesFourteenEdgesPlusStalls := by
  intro F s t ps ht hps h
  obtain ⟨hw, _, _⟩ := (takesFrame_iff s).1 ht
  obtain ⟨_, _, hlength⟩ := runToIdle_spec ps (s := s.capture F) hw hps h
  exact hlength

/-- What chan is when the frame in progress ends (R145, R146). -/
def finalChan (s : State) : Channel :=
  match s.phase with
  | .idle => s.chan
  | .guard => if accepts s.frame s.arch then .center else s.chan
  | .rot => .center
  | .ch => .center

theorem finalChan_edge {s t : State} (hw : s.wasReset = true) (hr : s.pins.rst = false)
    (hp : s.phase ≠ .idle) (hs : s.stalled = false) (h : edge s = .next t) :
    finalChan t = finalChan s := by
  cases hph : s.phase with
  | idle => exact absurd hph hp
  | guard =>
    rw [edge_guard hw hr hph] at h
    cases h
    cases ha : accepts s.frame s.arch <;> simp [finalChan, guardEdge, hph, ha]
  | rot =>
    rw [edge_rot_of_not_stalled hw hr hph hs] at h
    cases h
    simp [finalChan, hph]
  | ch =>
    obtain ⟨c, _, rfl⟩ | ⟨_, rfl⟩ := edge_ch_of_not_stalled hw hr hph hs h <;> simp [finalChan, hph]

/-- The end of the frame in progress, given the rest of its result. -/
def State.completed (s : State) (S : Arch) (evs : List Event) : State :=
  s.advance S .idle (finalChan s) evs

theorem completed_of_idle {s : State} (hp : s.phase = .idle) : s.completed s.arch [] = s := by
  cases s
  cases hp
  simp [State.completed, State.advance, finalChan]

/-- An edge on the way does not change where the frame ends. -/
theorem completed_edge {s t : State} (hw : s.wasReset = true) (hr : s.pins.rst = false)
    (hp : s.phase ≠ .idle) (hs : s.stalled = false) (h : edge s = .next t) (S : Arch) (evs : List Event) :
    t.completed S evs = s.completed S (taken s ++ evs) := by
  obtain ⟨hframe, hpins, hconfig, hreset, hfree, hdelivered⟩ := edge_frame hw hr hp h
  simp only [State.completed, State.advance, finalChan_edge hw hr hp hs h, hframe, hpins, hconfig,
    hreset, hfree, hdelivered, List.append_assoc]

/-- With both sinks ready the edges that are left bring the frame to its end. -/
theorem runToIdle_open :
    ∀ (n : Nat) {s : State} {S : Arch} {evs : List Event}, s.wasReset = true → s.pins.rst = false →
      s.sinksOpen = true → remaining s = n → pending s = some (S, evs) →
      runToIdle (List.replicate n s.pins) s = some (s.completed S evs) := by
  intro n
  induction n with
  | zero =>
    intro s S evs _ _ _ hn hpending
    have hp : s.phase = .idle := remaining_eq_zero.1 hn
    rw [pending_of_idle hp] at hpending
    cases hpending
    rw [completed_of_idle hp]
    exact if_pos hp
  | succ n ih =>
    intro s S evs hw hr ho hn hpending
    have hp : s.phase ≠ .idle := fun hidle => by simp [remaining_eq_zero.2 hidle] at hn
    have hs : s.stalled = false := stalled_of_open ho
    cases he : edge s with
    | fault r => cases r
    | refused r => simp [(pending_of_refused hw hr he).2] at hpending
    | next u =>
      obtain ⟨_, hpins, _, hreset, _, _⟩ := edge_frame hw hr hp he
      obtain ⟨hremaining, hrest⟩ := edge_progress hw hr hp hs he
      rw [hpending] at hrest
      obtain ⟨rest, hrest', rfl⟩ := pending_rest hrest
      have hrun := ih (hreset.trans hw) (hpins ▸ hr)
        (by rw [State.sinksOpen, hpins]; exact ho) (by omega) hrest'
      rw [hpins, completed_edge hw hr hp hs he] at hrun
      rw [List.replicate_succ, runToIdle, if_neg hp, State.withPins_self, he]
      exact hrun

/-- Settles O49: the edges end where the frame operation does. -/
theorem readySinksCompleteTheFrameInTime : Obligations.ReadySinksCompleteTheFrameInTime := by
  intro F s ht ho hl
  obtain ⟨hw, _hp, hr⟩ := (takesFrame_iff s).1 ht
  have hlegal := readField_resyncStage_ne_eleven ((latchesLegal_iff s.arch).1 hl) F
  cases htrans : transaction s.config.params F s.arch with
  | none =>
    obtain ⟨_ha, ch, h3⟩ := (transaction_eq_none_iff _ F s.arch).1 htrans
    exact absurd h3 (hlegal ch)
  | some r =>
    obtain ⟨S, evs⟩ := r
    refine ⟨s.finished F S evs, runToIdle_open _ (s := s.capture F) hw hr ho rfl htrans, ?_⟩
    rw [exec_decodeWord, frameOperation_open F ht ho, htrans]

theorem transfers_congr {p q : Pins} (hrot : p.rotReady = q.rotReady) (hsw : p.swReady = q.swReady)
    (ev : Option Event) : transfers p ev = transfers q ev := by
  match ev with
  | none => rfl
  | some (.rotary _) => exact hrot
  | some (.switch _ _ _) => exact hsw

@[simp] theorem State.withPins_withPins (s : State) (p q : Pins) :
    (s.withPins p).withPins q = s.withPins q := rfl

@[simp] theorem State.advance_withPins (s : State) (p : Pins) (S : Arch) (ph : Phase) (ch : Channel)
    (evs : List Event) : (s.withPins p).advance S ph ch evs = (s.advance S ph ch evs).withPins p := rfl

theorem rotEdge_withPins {p q : Pins} (hrot : p.rotReady = q.rotReady) (hsw : p.swReady = q.swReady)
    (s : State) : rotEdge (s.withPins q) = (rotEdge (s.withPins p)).withPins q := by
  have hev := transfers_congr hrot hsw (rotaryEvent s.frame s.arch)
  cases ht : transfers q (rotaryEvent s.frame s.arch) <;> simp [rotEdge, hev, ht]

theorem chEdge_withPins {p q : Pins} (hrot : p.rotReady = q.rotReady) (hsw : p.swReady = q.swReady)
    (s : State) : chEdge (s.withPins q) = (chEdge (s.withPins p)).withPins q := by
  have hev := transfers_congr hrot hsw (channelEvent s.config.params s.frame s.chan s.arch)
  cases ht : transfers q (channelEvent s.config.params s.frame s.chan s.arch) with
  | false => simp [chEdge, hev, ht]
  | true => cases hn : nextChannel s.chan <;> simp [chEdge, hev, ht, hn]

/-- Settles O51: past IDLE an edge reads rst and the readies only. -/
theorem framePortIsIgnoredInMidFrame : Obligations.FramePortIsIgnoredInMidFrame := by
  intro s t p q hw hp hrst hrot hsw he
  cases hr : p.rst with
  | true =>
    rw [edge_reset (s := s.withPins p) hr] at he
    cases he
    exact edge_reset (s := s.withPins q) (hrst ▸ hr)
  | false =>
    have hr' : q.rst = false := hrst ▸ hr
    cases hph : s.phase with
    | idle => exact absurd hph hp
    | guard =>
      rw [edge_guard (s := s.withPins p) hw hr hph] at he
      cases he
      exact edge_guard (s := s.withPins q) hw hr' hph
    | rot =>
      rw [edge_rot (s := s.withPins p) hw hr hph] at he
      cases he
      rw [edge_rot (s := s.withPins q) hw hr' hph, rotEdge_withPins hrot hsw]
    | ch =>
      by_cases h3 : readField s.arch s.chan = 0b11#2
      · simp [edge, hr, hw, hph, h3] at he
      · simp only [edge, State.withPins_pins, State.withPins_wasReset, State.withPins_phase,
          State.withPins_arch, State.withPins_chan, hr, hw, hph, h3] at he
        cases he
        simp [edge, hr', hw, hph, h3, chEdge_withPins hrot hsw s]

end Sys2Proof.Machine
end

section
/-! PROOFS. The output ports against the presented event (R66, R136, R139, R142, R145). -/

namespace Sys2Proof.Machine

/-- What the outputs of a cycle say: IDLE, and the presented event of each kind with its payload. -/
def OutputsCarry (s : State) (o : Outputs) : Prop :=
  (o.frameReady = true ↔ s.phase = .idle ∧ s.pins.rst = false)
    ∧ (o.rotValid = true ↔ ∃ d, presented s = some (some (.rotary d)) ∧ o.rotDelta = some d)
    ∧ (o.swValid = true ↔ ∃ ch k code, presented s = some (some (.switch ch k code))
        ∧ o.swChannel = some (BitVec.ofNat 4 (channelIndex ch).val)
        ∧ o.swKind = some (kindCode k) ∧ o.swCode = some code
        ∧ code = eventCode s.config.params ch k ∧ 1 ≤ code.toNat ∧ code.toNat ≤ 36)
    ∧ ¬(o.rotValid = true ∧ o.swValid = true)

/-- Without an event both valids are 0. -/
theorem outputsCarry_of_presented_none {s : State} {o : Outputs} (h : presented s = some none)
    (hready : o.frameReady = true ↔ s.phase = .idle ∧ s.pins.rst = false)
    (hrot : o.rotValid = false) (hsw : o.swValid = false) : OutputsCarry s o := by
  simp [OutputsCarry, h, hready, hrot, hsw]

theorem outputsCarry_rot {s : State} {o : Outputs} (hr : s.pins.rst = false) (hp : s.phase = .rot)
    (h : outputs s = some o) : OutputsCarry s o := by
  have hevent := presented_rot hr hp
  rw [rotaryEvent_eq] at hevent
  simp only [outputs, hr, hp, Bool.false_eq_true, if_false, Option.some.injEq] at h
  subst h
  by_cases hpos : framePos s.frame = s.arch.lastPos
  · rw [if_pos hpos] at hevent
    refine outputsCarry_of_presented_none hevent (by simp [quietOutputs, hp]) ?_ rfl
    rw [← Bool.not_eq_true, posChanged_iff, not_not]
    exact hpos
  · rw [if_neg hpos] at hevent
    have hchanged : posChanged (framePos s.frame) s.arch.lastPos = true := (posChanged_iff _ _).2 hpos
    simp [OutputsCarry, hevent, hchanged, quietOutputs, hp]

theorem outputsCarry_ch {s : State} {o : Outputs} (hr : s.pins.rst = false) (hp : s.phase = .ch)
    (h : outputs s = some o) : OutputsCarry s o := by
  by_cases h3 : readField s.arch s.chan = 0b11#2
  · simp [outputs, hr, hp, h3, transition_eleven] at h
  · have hevent := presented_ch hr hp
    rw [if_neg h3, expectedSwitch] at hevent
    simp only [outputs, hr, hp, Bool.false_eq_true, if_false, transition_of_ne_eleven h3,
      Option.map_some, Option.some.injEq] at h
    subst h
    cases hk : expectedKind (readField s.arch s.chan) (classify s.config.params s.frame s.chan) with
    | none =>
      rw [hk] at hevent
      exact outputsCarry_of_presented_none hevent (by simp [quietOutputs, hp]) rfl rfl
    | some k =>
      rw [hk] at hevent
      obtain ⟨hlow, hhigh⟩ := eventCode_range s.config s.chan k
      refine ⟨by simp [quietOutputs, hp], by simp [quietOutputs, hevent], ?_, by simp [quietOutputs]⟩
      exact ⟨fun _ => ⟨s.chan, k, _, hevent, rfl, rfl, rfl, rfl, hlow, hhigh⟩, fun _ => rfl⟩

/-- Settles O54, by rst and the phase: only ROT and CH present an event. -/
theorem outputsCarryThePresentedEvent : Obligations.OutputsCarryThePresentedEvent := by
  intro s o h
  change OutputsCarry s o
  cases hr : s.pins.rst with
  | true =>
    rw [outputs_of_rst hr] at h
    cases h
    exact outputsCarry_of_presented_none (presented_of_rst hr) (by simp [quietOutputs, hr]) rfl rfl
  | false =>
    cases hp : s.phase with
    | idle =>
      simp only [outputs, hr, hp] at h
      cases h
      exact outputsCarry_of_presented_none (presented_idle hp) (by simp [quietOutputs, hr, hp]) rfl rfl
    | guard =>
      simp only [outputs, hr, hp] at h
      cases h
      exact outputsCarry_of_presented_none (presented_guard hp) (by simp [quietOutputs, hp]) rfl rfl
    | rot => exact outputsCarry_rot hr hp h
    | ch => exact outputsCarry_ch hr hp h

end Sys2Proof.Machine
end
